-- ==== Sys2Proof/Word.lean ====
section
/-! DEFINITION. The words of the cs162 PRNG core: every architectural value is an unsigned number of a stated
width (R10), bit 0 the least significant (R9). -/

namespace Sys2Proof

/-- The document's `u32`: an unsigned 32-bit number (R10). -/
abbrev Word := BitVec 32

/-- A command word `CMD[33:0]` (R60). -/
abbrev CmdWord := BitVec 34

/-- A response word `RSP[32:0]` (R64). -/
abbrev RspWord := BitVec 33

/-- A word index of the MT state array, `0 ≤ i < 624` (R27, R40). -/
abbrev Index := Fin 624

/-- The MT state array `state[0..623]`: exactly 624 elements of 32 bits each (R26), one 32-bit word the smallest thing
an access can name (R40, R44). -/
abbrev MtArray := Vector Word 624

end Sys2Proof
end

