-- ==== Sys2Proof/Syntax.lean ====
section
/-! DEFINITION. The four commands of the core, one constructor per row of spec/opcode_table.json (R63). A NEXT has no
operand: its `arg` field is ignored (R62), so it is no part of the command. -/

namespace Sys2Proof

/-- A command (R63, R71). -/
inductive Instr where
  /-- `LCG.SEED s` (R80). -/
  | lcgSeed (v : Word)
  /-- `LCG.NEXT` (R81). -/
  | lcgNext
  /-- `MT.SEED s` (R100). -/
  | mtSeed (v : Word)
  /-- `MT.NEXT` (R135). -/
  | mtNext
deriving DecidableEq, Repr

end Sys2Proof
end

