-- ==== Sys2Proof/WellFormed.lean ====
section
/-! DEFINITION. What is well formed. Every command is: "every value of `arg` is legal" (R66), and an operand of type
`Word` is 32 bits wide by its type (R62, R103). Two checks do refuse something: a command word is CANONICAL when it is
what an assembler emits (R62: `arg = 0` for NEXT), and an assembler immediate must lie in `[0, 2^32)` (R70). -/

namespace Sys2Proof

/-- Well-formed commands: all of them (R66). -/
def Instr.wellFormed : Instr → Bool
  | .lcgSeed _ => true
  | .lcgNext => true
  | .mtSeed _ => true
  | .mtNext => true

/-- A command word an assembler emits: a SEED word, or a NEXT word with `arg = 0` (R62). -/
def CmdWord.canonical (w : CmdWord) : Bool :=
  !w.getLsbD 32 || w.extractLsb' 0 32 == 0#32

/-- An assembler immediate that is no error: a number in `[0, 2^32)` (R70). -/
def immInRange (n : Nat) : Bool := n < 4294967296

end Sys2Proof
end

