-- ==== Sys2Proof/Decode.lean ====
section
/-! DEFINITION. The command word `CMD34` and the response word (R60 to R67): fields, the opcode map as a table, the
decoder (total: "every word selects exactly one row", R63), the encoder, and the response word's packing. -/

namespace Sys2Proof

/-- `CMD[33]`, the engine select: 0 = LCG, 1 = MT (R61). -/
def engField (w : CmdWord) : Bool := w.getLsbD 33

/-- `CMD[32]`, the operation: 0 = SEED, 1 = NEXT (R61). -/
def opField (w : CmdWord) : Bool := w.getLsbD 32

/-- `CMD[31:0]`, the operand, taken whole (R61, R62). -/
def argField (w : CmdWord) : Word := w.extractLsb' 0 32

/-- The decoder: a pure function of the word (R67), defined on every word (R66). -/
def decode (w : CmdWord) : Instr :=
  match engField w, opField w with
  | false, false => .lcgSeed (argField w)
  | false, true => .lcgNext
  | true, false => .mtSeed (argField w)
  | true, true => .mtNext

/-- Why a number is not decoded. -/
inductive DecodeError where
  /-- The number is `2^34` or more, so it is no 34-bit command word (R60, R67). Raised by `decodeNumber` alone: no command
  word is refused. Safe: nothing is run. -/
  | notACommandWord (n : Nat)
deriving DecidableEq, Repr

/-- The decoder on an arbitrary number: a number that does not fit the 34 wires of `cmd` is no command. -/
def decodeNumber (n : Nat) : Except DecodeError Instr :=
  if n < 17179869184 then .ok (decode (BitVec.ofNat 34 n)) else .error (.notACommandWord n)

/-- The command my decoder reads from the low `nbits` bits of `w`, numbered as spec/opcode_table.json numbers them. -/
def decodeTableWord (nbits w : Nat) : Option Instr :=
  match decodeNumber (w % 2 ^ nbits) with
  | .ok i => some i
  | .error _ => none

/-- A command word from its three fields (R61). -/
def packCommand (eng op : Bool) (arg : Word) : CmdWord :=
  ((BitVec.ofBool eng).setWidth 34 <<< 33) ||| ((BitVec.ofBool op).setWidth 34 <<< 32) ||| arg.setWidth 34

/-- The word an assembler emits for a command: `arg = 0` for NEXT (R62, R63). -/
def encode : Instr → CmdWord
  | .lcgSeed v => packCommand false false v
  | .lcgNext => packCommand false true 0
  | .mtSeed v => packCommand true false v
  | .mtNext => packCommand true true 0

/-- A row of the opcode map: a word `w` selects it when `(w & mask) = bits` (R63). -/
structure OpcodeRow where
  mnemonic : String
  mask : CmdWord
  bits : CmdWord
deriving DecidableEq, Repr

/-- The row of `LCG.SEED` (R63). -/
def rowLcgSeed : OpcodeRow := ⟨"LCG.SEED", 0x300000000#34, 0x000000000#34⟩
/-- The row of `LCG.NEXT` (R63). -/
def rowLcgNext : OpcodeRow := ⟨"LCG.NEXT", 0x300000000#34, 0x100000000#34⟩
/-- The row of `MT.SEED` (R63). -/
def rowMtSeed : OpcodeRow := ⟨"MT.SEED", 0x300000000#34, 0x200000000#34⟩
/-- The row of `MT.NEXT` (R63). -/
def rowMtNext : OpcodeRow := ⟨"MT.NEXT", 0x300000000#34, 0x300000000#34⟩

/-- The opcode map (R63). -/
def opcodeTable : List OpcodeRow := [rowLcgSeed, rowLcgNext, rowMtSeed, rowMtNext]

/-- Whether a word selects a row (R63). -/
def OpcodeRow.selectedBy (r : OpcodeRow) (w : CmdWord) : Bool := (w &&& r.mask) == r.bits

/-- The row a command belongs to (R63). -/
def rowOf : Instr → OpcodeRow
  | .lcgSeed _ => rowLcgSeed
  | .lcgNext => rowLcgNext
  | .mtSeed _ => rowMtSeed
  | .mtNext => rowMtNext

/-- The response word `{err, data}` (R64). -/
def packResponse (err : Bool) (data : Word) : RspWord :=
  ((BitVec.ofBool err).setWidth 33 <<< 32) ||| data.setWidth 33

/-- `RSP[32]`: 1 = the command was refused with `Unseeded` (R64). -/
def rspErr (r : RspWord) : Bool := r.getLsbD 32

/-- `RSP[31:0]`: the drawn number of a successful NEXT, 0 otherwise (R64). -/
def rspData (r : RspWord) : Word := r.extractLsb' 0 32

end Sys2Proof
end

