-- ==== Sys2Proof/Config.lean ====
section
/-! DEFINITION. What is fixed for this hardware (the constants of R5 and R6, none of them writable: R25, R53), and the
two free values, which stand for register contents the spec calls unspecified (R29, R175). The open parameters of R8
(`LAT_*`, `RESET_KIND`, `EPOCH`) are read by no rule that computes a value or a state; the model ignores the first two
(R181, U7, U8; log entry 9) and takes the host's seconds since `EPOCH` as an argument (R68; log entry 14). -/

namespace Sys2Proof.Config

/-- `c`, the LCG multiplier (R5). -/
abbrev lcgMul : Nat := 65539
/-- `m = 2^31`, the LCG modulus (R5). -/
abbrev lcgMod : Nat := 2147483648
/-- `F`, the seed-expansion multiplier (R6). -/
abbrev seedMul : Nat := 1812433253
/-- The seeding shift (R6). -/
abbrev seedShift : Nat := 30
/-- `N`, the number of words of the MT state array (R6, R7). -/
abbrev arrayLen : Nat := 624
/-- `M`, the twist offset (R6). -/
abbrev twistOffset : Nat := 397
/-- `UPPER`: bit 31 (R6). -/
abbrev upperMask : Word := 0x80000000#32
/-- `LOWER`: bits 30 to 0 (R6). -/
abbrev lowerMask : Word := 0x7FFFFFFF#32
/-- `A`, the twist feedback constant (R6). -/
abbrev twistConst : Word := 0x9908B0DF#32
/-- `U`, the first tempering shift, to the right (R6). -/
abbrev temperU : Nat := 11
/-- `S`, the second tempering shift, to the left (R6). -/
abbrev temperS : Nat := 7
/-- `B`, the mask of the second tempering stage (R6). -/
abbrev temperB : Word := 0x9D2C5680#32
/-- `T`, the third tempering shift, to the left (R6). -/
abbrev temperT : Nat := 15
/-- `C`, the mask of the third tempering stage (R6). -/
abbrev temperC : Word := 0xEFC60000#32
/-- `L`, the fourth tempering shift, to the right (R6). -/
abbrev temperL : Nat := 18

/-- FREE VALUE (log entry 4, safe). What `seed` holds after the `n`-th reset applied to a running core: "unspecified",
and "two resets need not leave the same bits" (R29, R175). -/
opaque unspecifiedSeed : Nat → Word

/-- FREE VALUE (log entry 4, safe). What `state[0..623]` holds after the `n`-th reset applied to a running core: "any 624
32-bit values", a half-written array included (R29, R175, R176). -/
opaque unspecifiedArray : Nat → MtArray

end Sys2Proof.Config
end

