-- ==== Sys2Proof/Machine/State.lean ====
section
/-! DEFINITION. The state of the core (10_state.md), its two channels to the host (R60, R64, R72), and the two types of
reasons to stop. Every field is plain data; which fields are the spec's and which are the model's own is said at each. -/

namespace Sys2Proof.Machine

/-- One thing the host does at the core's interface (R72; log entry 6). -/
inductive HostEvent where
  /-- The host offers a command word on the command channel (`cmd_valid = 1`, `cmd = w`). -/
  | command (w : CmdWord)
  /-- The host takes the response on offer (`rsp_ready = 1`). -/
  | takeResponse
  /-- The host applies the reset input (`rst`, R175). -/
  | reset
deriving DecidableEq, Repr

/-- The state of the machine: the core's architectural state (the table at the head of 10_state.md, "Nothing else is
architectural"), the ghost counters (R28), and the two channels with the host at their other end (R60, R64, R72). -/
@[ext]
structure State where
  /-- `seed`: the LCG's one state word, 32 bits (R21). -/
  seed : Word
  /-- `lcg_valid`: 1 once the LCG engine has been seeded (R24). -/
  lcgValid : Bool
  /-- `state[0..623]`: the twister state array, 624 words of 32 bits (R26, R40). -/
  state : MtArray
  /-- `cursor`: index of the next word to temper, always in `[0, 624)` (R22; log entry 10). -/
  cursor : Index
  /-- `mt_valid`: 1 once the MT engine has been seeded (R24). -/
  mtValid : Bool
  /-- Ghost (R28): successful draws of the LCG engine since its last seeding. -/
  lcgDraws : Nat
  /-- Ghost (R28): successful draws of the MT engine since its last seeding. -/
  mtDraws : Nat
  /-- Ghost (R28): twist passes since the last `MT.SEED`. -/
  mtTwists : Nat
  /-- The response channel: the response on offer and not yet taken (`rsp_valid`, `rsp`; R64, R72), `none` when the channel
  is idle. -/
  rsp : Option RspWord
  /-- The host's side (R60, R72; log entry 6): what the host does next, in order, a command not yet accepted included. -/
  host : List HostEvent
  /-- The host's side (log entry 8): the responses the host has taken, the oldest first. -/
  received : List RspWord
  /-- The MODEL's own counter (log entry 4): resets applied so far. It selects the free values a reset leaves. -/
  resets : Nat
deriving DecidableEq, Repr

/-- Reasons to stop with a fault: there are none. The one exceptional outcome, `Unseeded`, is answered by a response and
the core goes on (R157), and "no command can fail" for any other cause (R155). Safe. -/
inductive Fault where
deriving DecidableEq, Repr

/-- Reasons to refuse a command. -/
inductive Refusal where
  /-- A command that has no meaning in this model yet, by its mnemonic. Raised by a refused arm of `exec` alone; all four
  commands have their meaning, so nothing raises it. Safe. -/
  | notModelled (mnemonic : String)
deriving DecidableEq, Repr

/-- The machine right after reset (R29, R175): both flags 0, `cursor = 0`, ghost counters 0, channels idle. `seed` and
`state[0..623]` are unspecified there; the zeros here are the model's (log entries 2 and 3: DESIGN CHOICE, unsafe), as are
the empty host side (log entries 6 and 8) and `resets = 0` (log entry 4). -/
def State.reset : State where
  seed := 0
  lcgValid := false
  state := Vector.replicate 624 0
  cursor := 0
  mtValid := false
  lcgDraws := 0
  mtDraws := 0
  mtTwists := 0
  rsp := none
  host := []
  received := []
  resets := 0

end Sys2Proof.Machine
end

