-- ==== Sys2Proof/Machine/Operands.lean ====
section
/-! DEFINITION. Operand forms: the index forms of the state array (R43, "exactly five ways"), the arithmetic primitives
the pseudocode is written in (R12 to R17), and the sequential loop (R11, R19). The one operand of a command, `arg`, is
taken whole by the decoder (R62). -/

namespace Sys2Proof.Machine

/-- A number as a word index: reduced `mod 624` (R13, R43). The form `i` of R43 (seeding write, twist read and write). -/
def idx (i : Nat) : Index := Fin.ofNat 624 i

/-- The form `i - 1` of R43: the seeding read. -/
def idxPrev (i : Nat) : Index := idx (i - 1)

/-- The form `(i + 1) mod 624` of R43: the twist read of the lower 31 bits. -/
def idxNext (i : Nat) : Index := idx (i + 1)

/-- The form `(i + 397) mod 624` of R43: the twist read of the word 397 ahead. -/
def idxAhead (i : Nat) : Index := idx (i + Config.twistOffset)

/-- `(cursor + 1) mod 624` (R140). The form `cursor` of R43 is the register itself. -/
def cursorNext (c : Index) : Index := idx (c.val + 1)

/-- `v >> k`: the logical right shift of a 32-bit word (R16). -/
def shr (v : Word) (k : Nat) : Word := v >>> k

/-- `v << k`: the 32-bit left shift; bits that pass bit 31 are lost (R16). -/
def shl (v : Word) (k : Nat) : Word := v <<< k

/-- `abs(v)` of an unsigned value is `v` (R14). -/
def absUnsigned (v : Nat) : Nat := v

/-- `zext_32(v)` of a value below `2^32`, and the truncation `v mod 2^32` of any other (R13, R19). -/
def toWord (v : Nat) : Word := BitVec.ofNat 32 v

/-- `for i in lo..hi:` over the half-open range, in increasing `i`, each iteration complete before the next begins
(R11, R19). Irreducible, so that no proof unrolls 624 iterations by accident; the kernel still evaluates it. -/
@[irreducible]
def forRange {α : Type} (lo hi : Nat) (body : α → Nat → α) (x : α) : α :=
  (List.range' lo (hi - lo)).foldl body x

end Sys2Proof.Machine
end

