-- ==== Sys2Proof/Machine/Flags.lean ====
section
/-! DEFINITION. The two status flags (R24) and the parity test (R17): the core has no condition codes, and no operation
writes a flag as a side effect. -/

namespace Sys2Proof.Machine

/-- `lcg_valid <- 1` (R24, R80). -/
def setLcgValid (s : State) : State := { s with lcgValid := true }

/-- `mt_valid <- 1` (R24, R100). -/
def setMtValid (s : State) : State := { s with mtValid := true }

/-- `lcg_valid <- 0` and `mt_valid <- 0`: reset alone does this (R24, R175). -/
def clearValidFlags (s : State) : State := { s with lcgValid := false, mtValid := false }

/-- "`y` is odd": `y[0] = 1` (R17). -/
def isOdd (y : Word) : Bool := y.getLsbD 0

end Sys2Proof.Machine
end

