-- ==== Sys2Proof/Machine/Ops.lean ====
section
/-! DEFINITION. The named operations over the state: the array's read and write (R19, R40, R44), register writes, the
response (R64), the one exception (R156, R157), reset (R175), and the two channels' handshake (R72). -/

namespace Sys2Proof.Machine

/-- `MemRead(i, 1)`: the 32-bit word at index `i` (R19, R44). -/
def memRead (a : MtArray) (i : Index) : Word := a[i]

/-- `MemWrite(i, 1, v)`: replaces all 32 bits of the word at index `i` (R19, R44). -/
def memWrite (a : MtArray) (i : Index) (v : Word) : MtArray := a.set i v

/-- `seed <- v`. -/
def writeSeed (v : Word) (s : State) : State := { s with seed := v }

/-- The array replaced by the outcome of a seeding loop or a twist pass. -/
def writeArray (a : MtArray) (s : State) : State := { s with state := a }

/-- `cursor <- c`. -/
def writeCursor (c : Index) (s : State) : State := { s with cursor := c }

/-- Ghost (R28): `LCG.SEED` starts the count of its draws at 0. -/
def countLcgSeed (s : State) : State := { s with lcgDraws := 0 }

/-- Ghost (R28): one more successful LCG draw. -/
def countLcgDraw (s : State) : State := { s with lcgDraws := s.lcgDraws + 1 }

/-- Ghost (R28, R100): `MT.SEED` sets `mt_twists` and `mt_draws` to 0. -/
def countMtSeed (s : State) : State := { s with mtDraws := 0, mtTwists := 0 }

/-- Ghost (R28): one more successful MT draw. -/
def countMtDraw (s : State) : State := { s with mtDraws := s.mtDraws + 1 }

/-- Ghost (R28): one more twist pass. -/
def countMtTwist (s : State) : State := { s with mtTwists := s.mtTwists + 1 }

/-- `respond(err, data)`: the response word of the current command is on offer (R19, R64). -/
def respond (err : Bool) (data : Word) (s : State) : State := { s with rsp := some (packResponse err data) }

/-- TAKING THE EXCEPTION: `raise Unseeded(eng)` abandons the command with no state change and answers `err = 1, data = 0`
(R156, R157). It saves nothing and goes nowhere, for the core has no register to save into and no control flow; the
engine concerned is known to the host from the command it sent. There is no return from it: no handler, nothing to
restore, nothing latched (R160). -/
def raiseUnseeded (s : State) : State := respond true 0 s

/-- `cmd_ready`: the core can take a command exactly when no response waits to be taken, for it holds at most one command
in flight (R72). -/
def cmdReady (s : State) : Bool := s.rsp.isNone

/-- `rsp_valid`: the core offers a response (R72). -/
def rspValid (s : State) : Bool := s.rsp.isSome

/-- The host's side becomes `h`. -/
def writeHost (h : List HostEvent) (s : State) : State := { s with host := h }

/-- The host takes the response on offer, and the channel is idle (R72); with none on offer nothing happens (log
entry 8). -/
def takeResponse (s : State) : State :=
  match s.rsp with
  | none => s
  | some r => { s with rsp := none, received := s.received ++ [r] }

/-- Reset (R175, R176): flags and `cursor` 0, `seed` and `state[0..623]` not cleared but unspecified (free values, log
entry 4), ghost counters 0 (R29), channels idle, so that a response not yet taken is abandoned. What the host holds is
the host's: commands not yet accepted are unaffected (R176). -/
def applyReset (s : State) : State :=
  { clearValidFlags s with
    seed := Config.unspecifiedSeed s.resets
    state := Config.unspecifiedArray s.resets
    cursor := 0
    lcgDraws := 0
    mtDraws := 0
    mtTwists := 0
    rsp := none
    resets := s.resets + 1 }

/-- The first thing the host does that is not the offer of a command, and what remains; the commands before it stay
where they are. -/
def firstNonCommand : List HostEvent → Option (HostEvent × List HostEvent)
  | [] => none
  | .command w :: rest => (firstNonCommand rest).map fun p => (p.1, .command w :: p.2)
  | .takeResponse :: rest => some (.takeResponse, rest)
  | .reset :: rest => some (.reset, rest)

/-- What happens next at the interface. While the core is ready, the host's next event. While a response waits, an
offered command is held back (R72, R178), and only the host's taking of the response or its reset, which travel on wires
of their own, can happen (log entry 7). -/
def nextHostEvent (s : State) : Option (HostEvent × List HostEvent) :=
  if cmdReady s then
    match s.host with
    | [] => none
    | e :: rest => some (e, rest)
  else firstNonCommand s.host

end Sys2Proof.Machine
end

