-- ==== Sys2Proof/Machine/Lcg.lean ====
section
/-! DEFINITION. The LCG engine: `LCG.SEED` (R80) and `LCG.NEXT` (R81). -/

namespace Sys2Proof.Machine

/-- One multiply-modulo step: the exact product (R82), reduced modulo `2^31` (R83), the `abs` the document asks to keep
(R84), as a 32-bit word (R81). -/
def lcgStep (seed : Word) : Word :=
  let p := Config.lcgMul * seed.toNat
  let r := p % Config.lcgMod
  toWord (absUnsigned r)

/-- `LCG.SEED v`: `seed` becomes `v`, all 32 bits unchanged; the engine is seeded (R80). -/
def execLcgSeed (v : Word) (s : State) : Host.Outcome State Fault Refusal :=
  .next (respond false 0 (countLcgSeed (setLcgValid (writeSeed v s))))

/-- `LCG.NEXT`: refused with `Unseeded` while `lcg_valid = 0`; else `seed` takes one step and the response carries the NEW
seed (R81). -/
def execLcgNext (s : State) : Host.Outcome State Fault Refusal :=
  if s.lcgValid then
    let v := lcgStep s.seed
    .next (respond false v (countLcgDraw (writeSeed v s)))
  else .next (raiseUnseeded s)

end Sys2Proof.Machine
end

