-- ==== Sys2Proof/Machine/MtTwist.lean ====
section
/-! DEFINITION. The MT engine, regeneration: the twist pass (R115 to R126), the first part of an `MT.NEXT` that finds
`cursor = 0`. -/

namespace Sys2Proof.Machine

/-- `y`: bit 31 of the current word, bits 30 to 0 of the next one (R117). -/
def twistY (cur next : Word) : Word := (cur &&& Config.upperMask) ||| (next &&& Config.lowerMask)

/-- The new word of a twist step from the three words it reads (R117). -/
def twistWord (cur next ahead : Word) : Word :=
  let y := twistY cur next
  let v := ahead ^^^ shr y 1
  if isOdd y then v ^^^ Config.twistConst else v

/-- One twist step: all three reads see the array as it is at this moment of the sweep, then the one write (R117,
R118). -/
def twistStep (a : MtArray) (i : Nat) : MtArray :=
  memWrite a (idx i) (twistWord (memRead a (idx i)) (memRead a (idxNext i)) (memRead a (idxAhead i)))

/-- The twist pass: one sequential sweep in place, `i = 0, 1, ..., 623` (R116, R118). -/
def twist (a : MtArray) : MtArray := forRange 0 Config.arrayLen twistStep a

/-- The pass on the machine: it writes `state` and nothing else of the core (R122); the ghost counter counts it (R28). -/
def runTwist (s : State) : State := countMtTwist (writeArray (twist s.state) s)

end Sys2Proof.Machine
end

