-- ==== Sys2Proof/Machine/MtExtract.lean ====
section
/-! DEFINITION. The MT engine, extraction: the tempering transform (R136) and `MT.NEXT` as a whole (R135). -/

namespace Sys2Proof.Machine

/-- The tempering transform: four stages, each on the result of the one before (R136, R137). -/
def temper (y0 : Word) : Word :=
  let y1 := y0 ^^^ shr y0 Config.temperU
  let y2 := y1 ^^^ (shl y1 Config.temperS &&& Config.temperB)
  let y3 := y2 ^^^ (shl y2 Config.temperT &&& Config.temperC)
  y3 ^^^ shr y3 Config.temperL

/-- Read, temper, advance, respond: the part of a draw after any regeneration (R135, R140). The tempered word is not
written back (R141). -/
def extract (s : State) : State :=
  respond false (temper (memRead s.state s.cursor)) (countMtDraw (writeCursor (cursorNext s.cursor) s))

/-- `MT.NEXT`: refused with `Unseeded` while `mt_valid = 0`; else regenerate when `cursor = 0` at the start of the draw
(R115), then extract (R135). -/
def execMtNext (s : State) : Host.Outcome State Fault Refusal :=
  if s.mtValid then
    .next (extract (if s.cursor = 0 then runTwist s else s))
  else .next (raiseUnseeded s)

end Sys2Proof.Machine
end

