-- ==== Sys2Proof/Machine/MtSeed.lean ====
section
/-! DEFINITION. The MT engine, seeding: `MT.SEED` (R100 to R106). -/

namespace Sys2Proof.Machine

/-- `(F * (prev XOR (prev >> 30)) + i) mod 2^32`, product and sum exact before the reduction (R100, R101). -/
def seedWord (prev : Word) (i : Nat) : Word :=
  let t := prev ^^^ shr prev Config.seedShift
  toWord (Config.seedMul * t.toNat + i)

/-- One iteration of the seeding loop, in place: `state[i]` from `state[i-1]` (R100). -/
def seedStep (a : MtArray) (i : Nat) : MtArray :=
  memWrite a (idx i) (seedWord (memRead a (idxPrev i)) i)

/-- The seeding of the array, in place on what it held: `state[0] <- v`, then `i = 1, ..., 623` in this order (R100,
R102). -/
def mtSeedArray (a : MtArray) (v : Word) : MtArray :=
  forRange 1 Config.arrayLen seedStep (memWrite a (idx 0) v)

/-- `MT.SEED v`: the array, `cursor <- 0`, `mt_valid <- 1`, the ghost counters 0; no twist pass (R100). -/
def execMtSeed (v : Word) (s : State) : Host.Outcome State Fault Refusal :=
  .next (respond false 0 (countMtSeed (setMtValid (writeCursor (idx 0) (writeArray (mtSeedArray s.state v) s)))))

end Sys2Proof.Machine
end

