-- ==== Sys2Proof/Machine/Dispatch.lean ====
section
/-! DEFINITION. One arm per command. -/

namespace Sys2Proof.Machine

def exec (i : Instr) (s : State) : Host.Outcome State Fault Refusal :=
  match i with
  | .lcgSeed v => Sys2Proof.Machine.execLcgSeed v s
  | .lcgNext => Sys2Proof.Machine.execLcgNext s
  | .mtSeed v => Sys2Proof.Machine.execMtSeed v s
  | .mtNext => Sys2Proof.Machine.execMtNext s

end Sys2Proof.Machine
end

