-- ==== Sys2Proof/Machine/Step.lean ====
section
/-! DEFINITION. One step of the machine: one event at its interface (log entry 6). A command that is accepted runs whole,
as one atomic transition from acceptance to response (R45, R181: a model "steps once per command"). -/

namespace Sys2Proof.Machine

/-- One step. With nothing offered the core is idle and holds its state (R169, R183); with a response the host never takes
and only commands offered, it waits and nothing is lost or changed (R178, U9). -/
def step (s : State) : Host.Outcome State Fault Refusal :=
  match nextHostEvent s with
  | none => .next s
  | some (.command w, rest) => exec (decode w) (writeHost rest s)
  | some (.takeResponse, rest) => .next (takeResponse (writeHost rest s))
  | some (.reset, rest) => .next (applyReset (writeHost rest s))

/-- `s` with the command word whose low `nbits` bits are those of `w` offered next, and the core ready for it (no response
waiting), so that the next step accepts and runs exactly it (log entry 11). -/
def State.withFetchWord (s : State) (nbits w : Nat) : State :=
  { s with
    rsp := none
    host := .command (BitVec.ofNat 34 (w % 2 ^ nbits)) :: s.host }

end Sys2Proof.Machine
end

