-- ==== Sys2Proof/Machine/HostOps.lean ====
section
/-! DEFINITION. What a host does around the commands, outside the core (R68 to R70): the pseudo-operations `NEW.LCG`,
`NEW.MT`, `DRAW.INDEX`, and the assembler's reading of a listing. No rule of the core depends on them. -/

namespace Sys2Proof.Machine

/-- `s mod 2^32` of a host integer, of its two's-complement form when negative (R68, R103). -/
def reduceSeed (s : Int) : Word := BitVec.ofInt 32 s

/-- `NEW.LCG [s]` (R68). `now` is the host's clock in whole seconds since `EPOCH`, which no document fixes (R8; log
entry 14). -/
def newLcg (now : Int) : Option Int → Instr
  | some s => .lcgSeed (reduceSeed s)
  | none => .lcgSeed (reduceSeed now)

/-- `NEW.MT [s]` (R68). -/
def newMt (now : Int) : Option Int → Instr
  | some s => .mtSeed (reduceSeed s)
  | none => .mtSeed (reduceSeed now)

/-- The operand `eng` of `DRAW.INDEX`: the engine to draw from, named as the part of a mnemonic before its dot (R69, R70). -/
inductive Engine where
  /-- `LCG`. -/
  | lcg
  /-- `MT`. -/
  | mt
deriving DecidableEq, Repr

/-- `eng.NEXT`: the one command `DRAW.INDEX eng, len` sends to the core (R69). -/
def engineNext : Engine → Instr
  | .lcg => .lcgNext
  | .mt => .mtNext

/-- The host's half of `DRAW.INDEX eng, len`: `data mod len` on the unsigned 32-bit `data` of the response; a host must refuse
`len = 0` (R69, U10). -/
def drawIndex (data : Word) (len : Nat) : Option Nat :=
  if len = 0 then none else some (data.toNat % len)

/-- The index a host has from the response to `eng.NEXT`: that of the number drawn. A refused draw returns no number
(R64, R157), so there is none to reduce (log entry 18). -/
def responseIndex (r : RspWord) (len : Nat) : Option Nat :=
  if rspErr r then none else drawIndex (rspData r) len

/-- `DRAW.INDEX eng, len` (R69): `eng.NEXT`, run by the core, which knows nothing of `len`, followed in the host by
`data mod len` on that response. The core's state after it, and the host's index where there is one. -/
def execDrawIndex (eng : Engine) (len : Nat) (s : State) : Host.Outcome (State × Option Nat) Fault Refusal :=
  match exec (engineNext eng) s with
  | .next t => .next (t, t.rsp.bind fun r => responseIndex r len)
  | .fault f => .fault f
  | .refused r => .refused r

/-- A character that separates tokens (log entry 13). -/
def isBlank (c : Char) : Bool := c == ' ' || c == '\t' || c == '\r'

/-- A line without its comment (R70). -/
def stripComment : List Char → List Char
  | [] => []
  | c :: cs => if c == ';' then [] else c :: stripComment cs

/-- The tokens of a line; `acc` holds the current token's characters, the last first. -/
def tokens (acc : List Char) : List Char → List (List Char)
  | [] => if acc.isEmpty then [] else [acc.reverse]
  | c :: cs =>
    if isBlank c then
      if acc.isEmpty then tokens [] cs else acc.reverse :: tokens [] cs
    else tokens (c :: acc) cs

/-- A hexadecimal digit's value, capital or small (log entry 13). -/
def digitValue (c : Char) : Option Nat :=
  if '0'.toNat ≤ c.toNat ∧ c.toNat ≤ '9'.toNat then some (c.toNat - '0'.toNat)
  else if 'a'.toNat ≤ c.toNat ∧ c.toNat ≤ 'f'.toNat then some (c.toNat - 'a'.toNat + 10)
  else if 'A'.toNat ≤ c.toNat ∧ c.toNat ≤ 'F'.toNat then some (c.toNat - 'A'.toNat + 10)
  else none

/-- The number a string of digits denotes in a base, after the digits already read. -/
def readDigits (base : Nat) : List Char → Nat → Option Nat
  | [], n => some n
  | c :: cs, n =>
    match digitValue c with
    | none => none
    | some d => if d < base then readDigits base cs (n * base + d) else none

/-- `imm32`: a decimal number in `[0, 2^32)`, or `0x` and 1 to 8 hexadecimal digits; a number outside the range is an
error, not a truncation (R70). -/
def readImm32 : List Char → Option Word
  | [] => none
  | '0' :: 'x' :: ds =>
    if 1 ≤ ds.length ∧ ds.length ≤ 8 then (readDigits 16 ds 0).map toWord else none
  | ds =>
    match readDigits 10 ds 0 with
    | none => none
    | some n => if immInRange n then some (toWord n) else none

/-- A `command` of the grammar: a mnemonic in capitals, and for a SEED its operand (R70). -/
def readCommand : List (List Char) → Option Instr
  | [m] =>
    if m == ['L', 'C', 'G', '.', 'N', 'E', 'X', 'T'] then some .lcgNext
    else if m == ['M', 'T', '.', 'N', 'E', 'X', 'T'] then some .mtNext
    else none
  | [m, x] =>
    if m == ['L', 'C', 'G', '.', 'S', 'E', 'E', 'D'] then (readImm32 x).map .lcgSeed
    else if m == ['M', 'T', '.', 'S', 'E', 'E', 'D'] then (readImm32 x).map .mtSeed
    else none
  | _ => none

/-- A `line` of the grammar, without its newline (R70). -/
def readLine (cs : List Char) : Option Instr := readCommand (tokens [] (stripComment cs))

/-- The lines of a text, each ended by a newline; `acc` holds the current line's characters, the last first. A last line
without its newline is no line of the grammar (R70). -/
def linesOf (acc : List Char) : List Char → Option (List (List Char))
  | [] => if acc.isEmpty then some [] else none
  | c :: cs => if c == '\n' then (linesOf [] cs).map (acc.reverse :: ·) else linesOf (c :: acc) cs

/-- A `program` of the grammar: its commands in order, or none where a line is an error (R70). -/
def readProgram (text : List Char) : Option (List Instr) :=
  (linesOf [] text).bind fun ls => ls.mapM readLine

/-- What a host that runs a program and takes every response does at the interface (R49, R178). -/
def hostOf (p : List Instr) : List HostEvent := p.flatMap fun i => [.command (encode i), .takeResponse]

end Sys2Proof.Machine
end

