-- ==== Sys2Proof/Safety.lean ====
section
/-! DEFINITION. The terms claims are made in: running a list of commands, what a safe run is (no draw refused), the
machine's invariant, what two states must share to be indistinguishable at the interface, and the one alternative design
the spec discusses (R124). -/

namespace Sys2Proof

/-- A command of the LCG engine (R30). -/
def Instr.isLcg : Instr → Bool
  | .lcgSeed _ => true
  | .lcgNext => true
  | .mtSeed _ => false
  | .mtNext => false

/-- An `LCG.SEED`. -/
def Instr.isLcgSeed : Instr → Bool
  | .lcgSeed _ => true
  | .lcgNext => false
  | .mtSeed _ => false
  | .mtNext => false

end Sys2Proof

namespace Sys2Proof.Machine

/-- Commands executed one after another (R49): the state after them, and the response to each, in command order. `none` if
one of them stops the machine. -/
def runCommands : List Instr → State → Option (State × List (Option RspWord))
  | [], s => some (s, [])
  | i :: is, s =>
    match exec i s with
    | .next t => (runCommands is t).map fun p => (p.1, t.rsp :: p.2)
    | .fault _ => none
    | .refused _ => none

/-- The responses to the commands of `is` that `sel` selects, out of the responses `rs` to all of them. -/
def responsesTo (sel : Instr → Bool) : List Instr → List (Option RspWord) → List (Option RspWord)
  | i :: is, r :: rs => if sel i then r :: responsesTo sel is rs else responsesTo sel is rs
  | _, _ => []

/-- The response of a successful draw: `err = 0` and its number (R65). -/
def drawn (v : Word) : Option RspWord := some (packResponse false v)

/-- The outputs of the LCG engine after `LCG.SEED v`, as the rule defines them: the `k`-th draw is the `k`-th step
(R81). -/
def lcgOutput (v : Word) (k : Nat) : Word := lcgStep^[k] v

/-- A response that is no error (R64). -/
def rspOk (r : RspWord) : Bool := !rspErr r

/-- A run so far is SAFE when no draw was refused: no response with `err = 1`, taken or on offer (60_exceptions.md section
15: `Unseeded` is outside the document's contract, so claims take it as absent). -/
def State.safe (s : State) : Bool := s.received.all rspOk && s.rsp.all rspOk

/-- The host's duties "seed an engine before drawing from it" and, so that a seeded engine stays seeded, no reset (R177,
R178), checked on what the host does next. `l` and `m` say whether the engines are seeded already. -/
def seedsFirst (l m : Bool) : List HostEvent → Bool
  | [] => true
  | .takeResponse :: rest => seedsFirst l m rest
  | .reset :: _ => false
  | .command w :: rest =>
    match decode w with
    | .lcgSeed _ => seedsFirst true m rest
    | .mtSeed _ => seedsFirst l true rest
    | .lcgNext => l && seedsFirst l m rest
    | .mtNext => m && seedsFirst l m rest

/-- A response word the core can give: `data` is 0 whenever `err` is 1 (R64). -/
def rspLegal (r : RspWord) : Bool := !rspErr r || rspData r == 0#32

/-- The machine's invariant. Each clause is a sentence of the spec about every reachable state. -/
structure State.Inv (s : State) : Prop where
  /-- After any `LCG.NEXT`, `seed[31] = 0`, until the next `LCG.SEED` (R21, R85). -/
  seed_range : s.lcgDraws ≠ 0 → s.seed.toNat < 2147483648
  /-- An unseeded LCG engine has answered no draw (R24, R156). -/
  lcg_unseeded : s.lcgValid = false → s.lcgDraws = 0
  /-- An unseeded MT engine has answered no draw (R24, R156). -/
  mt_unseeded : s.mtValid = false → s.mtDraws = 0
  /-- `cursor = mt_draws mod 624` (R123, R140). -/
  cursor_eq : s.cursor.val = s.mtDraws % 624
  /-- `mt_twists = ceil(mt_draws / 624)` (R123). -/
  twists_eq : s.mtTwists = (s.mtDraws + 623) / 624
  /-- The response on offer is a legal one (R64). -/
  rsp_legal : s.rsp.all rspLegal = true
  /-- So was every response taken (R64). -/
  received_legal : s.received.all rspLegal = true

/-- Two states that differ at most in what an unseeded engine holds: `seed` while `lcg_valid = 0`, and `state[0..623]`
while `mt_valid = 0` (R29, U1). -/
structure State.AgreeSeeded (s t : State) : Prop where
  seed_eq : s.lcgValid = true → s.seed = t.seed
  state_eq : s.mtValid = true → s.state = t.state
  rest_eq : t = { s with seed := t.seed, state := t.state }

/-- The alternative organisation R124 speaks of: one twist step just before tempering, on every draw, instead of the whole
pass at `cursor = 0`. The array and cursor after a draw. -/
def incrementalDraw (p : MtArray × Index) : MtArray × Index :=
  (twistStep p.1 p.2.val, cursorNext p.2)

/-- The word the incremental organisation gives for a draw. -/
def incrementalOutput (p : MtArray × Index) : Word := temper (memRead (twistStep p.1 p.2.val) p.2)

/-- The array and cursor of the architectural (batch) organisation after a draw (R135). -/
def batchDraw (p : MtArray × Index) : MtArray × Index :=
  (if p.2 = 0 then twist p.1 else p.1, cursorNext p.2)

/-- The word the batch organisation gives for a draw (R135). -/
def batchOutput (p : MtArray × Index) : Word := temper (memRead (if p.2 = 0 then twist p.1 else p.1) p.2)

end Sys2Proof.Machine
end

