-- ==== Sys2Proof/Certificates/Slice0/Obligations.lean ====
section
/-! DEFINITION. The statements for the provers, in the order of the spec's files. Each docstring names the rules it
formalises; where a clause rests on a choice of the model's own it says so. -/

open Sys2Proof Sys2Proof.Machine

/-! ## Encoding (30_encoding.md) -/

/-- The example words of R63 and 95_test_vectors.md V45, as the spec writes them, decode to the commands they stand for. -/
def Obligations.SpecWordsDecode : Prop :=
  decode 0x000000001#34 = .lcgSeed 1#32 ∧
  decode 0x0FFFFFFFF#34 = .lcgSeed 0xFFFFFFFF#32 ∧
  decode 0x100000000#34 = .lcgNext ∧
  decode 0x1DEADBEEF#34 = .lcgNext ∧
  decode 0x200001571#34 = .mtSeed 5489#32 ∧
  decode 0x280000000#34 = .mtSeed 0x80000000#32 ∧
  decode 0x300000000#34 = .mtNext ∧
  decode 0x3FFFFFFFF#34 = .mtNext

/-- R63: every one of the `2^34` command words selects exactly one row of the opcode map by mask and match, and it is the
row of the command the decoder reads. -/
def Obligations.EveryWordSelectsExactlyItsRow : Prop :=
  ∀ w : CmdWord, opcodeTable.filter (fun r => r.selectedBy w) = [rowOf (decode w)]

/-- R62: the operand of a SEED word is its low 32 bits, taken whole; a NEXT word decodes to the same command whatever its
low 32 bits are. -/
def Obligations.OperandTakenWholeAndIgnoredByNext : Prop :=
  ∀ (eng : Bool) (arg : Word),
    decode (packCommand eng false arg) = (if eng then .mtSeed arg else .lcgSeed arg) ∧
    decode (packCommand eng true arg) = (if eng then .mtNext else .lcgNext)

/-- 30_encoding.md section 10: decoding an encoded command gives it back, for every command and every operand; encoding a
decoded word gives the word back exactly when the word is a SEED or has `arg = 0`; and encoding is one to one. -/
def Obligations.DecodeAndEncodeAgree : Prop :=
  (∀ i : Instr, decode (encode i) = i) ∧
  (∀ w : CmdWord, encode (decode w) = w ↔ (opField w = false ∨ argField w = 0#32)) ∧
  (∀ i j : Instr, encode i = encode j → i = j)

/-- R64: bit 32 of a response word is `err`, bits 31 to 0 are `data`, and there is nothing else in it. -/
def Obligations.ResponseWordIsErrAndData : Prop :=
  (∀ (err : Bool) (data : Word),
    (packResponse err data).getLsbD 32 = err ∧
    (∀ k, k < 32 → (packResponse err data).getLsbD k = data.getLsbD k)) ∧
  (∀ r : RspWord, packResponse (rspErr r) (rspData r) = r)

/-! ## The step and the two channels (20_memory.md, 30_encoding.md R72, 70_reset_and_hazards.md) -/

/-- A STEP RUNS THE DECODED COMMAND: with the core ready and a command word offered next, the step is `exec` of the decoded
command at the state in which that word is no longer on offer. -/
def Obligations.StepRunsTheDecodedCommand : Prop :=
  ∀ (s : State) (w : CmdWord) (rest : List HostEvent),
    s.rsp = none → s.host = .command w :: rest →
    step s = exec (decode w) { s with host := rest }

/-- The word placed by `withFetchWord` is the very next command the step runs, from every state and for every 34-bit word;
`decodeTableWord` answers that command. -/
def Obligations.FetchWordIsWhatRunsNext : Prop :=
  ∀ (s : State) (w : Nat), w < 2 ^ 34 →
    decodeTableWord 34 w = some (decode (BitVec.ofNat 34 w)) ∧
    step (s.withFetchWord 34 w) = exec (decode (BitVec.ofNat 34 w)) { s with rsp := none }

/-- R72, R178: while a response waits, no command is accepted. If the host only offers commands the core waits and nothing
changes (U9: stuck, not fault); once the host takes the response, the response leaves the channel for the host and the
commands are on offer as before. That the taking passes the commands offered before it is the model's reading (log
entry 7). -/
def Obligations.CommandsWaitWhileAResponseIsPending : Prop :=
  ∀ (s : State) (r : RspWord) (ws : List CmdWord),
    s.rsp = some r →
    (s.host = ws.map .command → step s = .next s) ∧
    (∀ rest, s.host = ws.map .command ++ .takeResponse :: rest →
      step s = .next { s with rsp := none, received := s.received ++ [r], host := ws.map .command ++ rest })

/-- R175, R176: a reset applied to a running core, a response still on offer included. Both engines are unseeded, `cursor`
is 0, the channels are idle (the response is abandoned, and never received), and commands not yet accepted are still
offered. The ghost counters restart (R29). `seed` and `state[0..623]` are free values: nothing is said of them. -/
def Obligations.ResetAbandonsTheCommandInFlight : Prop :=
  ∀ (s : State) (ws : List CmdWord) (rest : List HostEvent),
    (s.rsp ≠ none ∨ ws = []) → s.host = ws.map .command ++ .reset :: rest →
    ∃ t, step s = .next t ∧
      t.lcgValid = false ∧ t.mtValid = false ∧ t.cursor = 0 ∧ t.rsp = none ∧
      t.lcgDraws = 0 ∧ t.mtDraws = 0 ∧ t.mtTwists = 0 ∧
      t.received = s.received ∧ t.host = ws.map .command ++ rest

/-- R169, R183: with no command offered and no response to take, the core is idle and holds its state. -/
def Obligations.IdleCoreHoldsItsState : Prop :=
  ∀ s : State, s.host = [] → step s = .next s

/-- R29, R175: after reset both engines are unseeded, `cursor` is 0, the ghost counters are 0 and the channels idle, and
a draw of either engine is refused with `Unseeded`. -/
def Obligations.ResetLeavesBothEnginesUnseeded : Prop :=
  State.reset.lcgValid = false ∧ State.reset.mtValid = false ∧ State.reset.cursor = 0 ∧
  State.reset.lcgDraws = 0 ∧ State.reset.mtDraws = 0 ∧ State.reset.mtTwists = 0 ∧ State.reset.rsp = none ∧
  exec .lcgNext State.reset = .next { State.reset with rsp := some 0x100000000#33 } ∧
  exec .mtNext State.reset = .next { State.reset with rsp := some 0x100000000#33 }

/-- R155, R180: no command, no sequence of commands and no host makes the core stop; every step of every state answers a
next state, for any number of steps. -/
def Obligations.NothingStopsTheCore : Prop :=
  (∀ (i : Instr) (s : State), ∃ t, exec i s = .next t) ∧
  (∀ (n : Nat) (s : State), ∃ t, Host.Core.run core n s = .next t)

/-- R55, R183: an accepted command is answered, and its response reaches a host that takes it: two events after the
command is offered to a ready core, whatever commands the host offers meanwhile. Where it offers some (`ws` not empty), its
taking passes them, though they come before it in its list: that is the model's reading, not the spec's (log entry 7,
DESIGN CHOICE). -/
def Obligations.AcceptedCommandIsAnswered : Prop :=
  ∀ (s : State) (w : CmdWord) (ws : List CmdWord) (rest : List HostEvent),
    s.rsp = none → s.host = .command w :: (ws.map .command ++ .takeResponse :: rest) →
    ∃ t u r, exec (decode w) { s with host := ws.map .command ++ .takeResponse :: rest } = .next t ∧
      t.rsp = some r ∧
      Host.Core.run core 2 s = .next u ∧
      u = { t with rsp := none, received := s.received ++ [r], host := ws.map .command ++ rest }

/-- R49, R64: exactly one response per command, in command order. A host that offers all its commands at once and then takes
all the responses receives, after one step per command and one per response, exactly the responses of the commands run one
after another, and the engines are as after those commands. That such a host runs at all, each taking passing the commands
still on offer before it, is the model's reading, not the spec's (log entry 7, DESIGN CHOICE). -/
def Obligations.OneResponsePerCommandInOrder : Prop :=
  ∀ (s u : State) (ws : List CmdWord) (rs : List RspWord),
    s.rsp = none →
    s.host = ws.map .command ++ List.replicate ws.length .takeResponse →
    runCommands (ws.map decode) s = some (u, rs.map some) →
    Host.Core.run core (2 * ws.length) s =
      .next { u with rsp := none, received := s.received ++ rs, host := [] }

/-- R49, R70: a host that sends a list of commands as an assembler encodes them, and takes every response as it comes,
receives the responses of exactly those commands, in order. -/
def Obligations.HostRunsItsCommandList : Prop :=
  ∀ (s u : State) (p : List Instr) (rs : List RspWord),
    s.rsp = none → s.host = hostOf p →
    runCommands p s = some (u, rs.map some) →
    Host.Core.run core (2 * p.length) s =
      .next { u with rsp := none, received := s.received ++ rs, host := [] }

/-! ## State (10_state.md) and errors (60_exceptions.md) -/

/-- R65: every command is answered, with `err = 1` exactly when it is a draw on an engine whose flag is 0. The data is the new
`seed`, its bit 31 clear, for a successful `LCG.NEXT`; the tempered word the cursor named, in the array after any pass, for
a successful `MT.NEXT`; and 0 for a SEED and for an error. -/
def Obligations.ResponseValuesPerCommand : Prop :=
  ∀ (i : Instr) (s : State), ∃ t r, exec i s = .next t ∧ t.rsp = some r ∧
    (rspErr r = true ↔ (i = .lcgNext ∧ s.lcgValid = false) ∨ (i = .mtNext ∧ s.mtValid = false)) ∧
    (rspErr r = true → rspData r = 0x00000000#32) ∧
    (∀ v, i = .lcgSeed v ∨ i = .mtSeed v → rspData r = 0x00000000#32) ∧
    (i = .lcgNext → s.lcgValid = true → rspData r = t.seed ∧ (rspData r).getLsbD 31 = false) ∧
    (i = .mtNext → s.mtValid = true → rspData r = temper (memRead t.state s.cursor))

/-- R160: an error does not latch. However often an unseeded engine is drawn from, each draw gets the same error and changes
nothing else; and the engine's seed command afterwards is executed, leaves exactly the state it would have left without
those draws, and the engine is seeded. -/
def Obligations.RefusedDrawsLeaveNoTrace : Prop :=
  ∀ (s : State) (v : Word) (n : Nat),
    (s.lcgValid = false →
      runCommands (List.replicate (n + 1) .lcgNext) s =
        some ({ s with rsp := some 0x100000000#33 }, List.replicate (n + 1) (some 0x100000000#33)) ∧
      ∃ u, exec (.lcgSeed v) { s with rsp := some 0x100000000#33 } = .next u ∧ exec (.lcgSeed v) s = .next u ∧
        u.lcgValid = true) ∧
    (s.mtValid = false →
      runCommands (List.replicate (n + 1) .mtNext) s =
        some ({ s with rsp := some 0x100000000#33 }, List.replicate (n + 1) (some 0x100000000#33)) ∧
      ∃ u, exec (.mtSeed v) { s with rsp := some 0x100000000#33 } = .next u ∧ exec (.mtSeed v) s = .next u ∧
        u.mtValid = true)

/-- R24: a valid flag becomes 1 only in the step that runs that engine's seed command, and becomes 0 only in a reset. -/
def Obligations.FlagsChangeOnlyBySeedAndReset : Prop :=
  ∀ s t : State, step s = .next t →
    (s.lcgValid = false → t.lcgValid = true →
      ∃ w rest v, nextHostEvent s = some (.command w, rest) ∧ decode w = .lcgSeed v) ∧
    (s.mtValid = false → t.mtValid = true →
      ∃ w rest v, nextHostEvent s = some (.command w, rest) ∧ decode w = .mtSeed v) ∧
    (s.lcgValid = true → t.lcgValid = false → ∃ rest, nextHostEvent s = some (.reset, rest)) ∧
    (s.mtValid = true → t.mtValid = false → ∃ rest, nextHostEvent s = some (.reset, rest))

/-- R31: the state of an engine just after its seed command is a function of the operand alone, and so is the command's
response: two states, whatever they hold, agree on that engine after it. -/
def Obligations.SeededEngineIsAFunctionOfTheOperand : Prop :=
  ∀ (v : Word) (s s' : State),
    (∃ t t', exec (.lcgSeed v) s = .next t ∧ exec (.lcgSeed v) s' = .next t' ∧
      t.seed = t'.seed ∧ t.lcgValid = t'.lcgValid ∧ t.lcgDraws = t'.lcgDraws ∧ t.rsp = t'.rsp) ∧
    (∃ t t', exec (.mtSeed v) s = .next t ∧ exec (.mtSeed v) s' = .next t' ∧
      t.state = t'.state ∧ t.cursor = t'.cursor ∧ t.mtValid = t'.mtValid ∧
      t.mtDraws = t'.mtDraws ∧ t.mtTwists = t'.mtTwists ∧ t.rsp = t'.rsp)

/-- R46: the seed commands are idempotent: executing one twice in a row leaves the same state as once. -/
def Obligations.SeedingTwiceIsSeedingOnce : Prop :=
  ∀ (v : Word) (s : State),
    (∃ t, exec (.lcgSeed v) s = .next t ∧ exec (.lcgSeed v) t = .next t) ∧
    (∃ t, exec (.mtSeed v) s = .next t ∧ exec (.mtSeed v) t = .next t)

/-- R30, R49: the engines are independent. In any run of commands, the LCG engine ends as it would if only the LCG commands
had been run, and its responses are the same; likewise the MT engine. -/
def Obligations.EnginesAreIndependent : Prop :=
  ∀ (is : List Instr) (s u : State) (rs : List (Option RspWord)),
    runCommands is s = some (u, rs) →
    (∃ t, runCommands (is.filter Instr.isLcg) s = some (t, responsesTo Instr.isLcg is rs) ∧
      t.seed = u.seed ∧ t.lcgValid = u.lcgValid ∧ t.lcgDraws = u.lcgDraws ∧
      t.state = s.state ∧ t.cursor = s.cursor ∧ t.mtValid = s.mtValid) ∧
    (∃ t, runCommands (is.filter fun i => !i.isLcg) s = some (t, responsesTo (fun i => !i.isLcg) is rs) ∧
      t.state = u.state ∧ t.cursor = u.cursor ∧ t.mtValid = u.mtValid ∧
      t.mtDraws = u.mtDraws ∧ t.mtTwists = u.mtTwists ∧
      t.seed = s.seed ∧ t.lcgValid = s.lcgValid)

/-- R29, U1: what an unseeded engine holds is never read. Two states that differ at most in the `seed` of an unseeded LCG
engine and in the array of an unseeded MT engine stay so in every step, a reset included, with the same responses
(the clause `rest_eq` of `AgreeSeeded` covers both channels). So no claim about responses leans on the zeros the model puts
there at reset (log entries 2 and 3). -/
def Obligations.UnseededContentsAreNeverRead : Prop :=
  ∀ s s' t : State, s.AgreeSeeded s' → step s = .next t → ∃ t', step s' = .next t' ∧ t.AgreeSeeded t'

/-- The invariant holds after reset. -/
def Obligations.InvariantHoldsAtReset : Prop := State.reset.Inv

/-- R21, R22, R24, R64, R123, R140: every step of every state that meets the invariant gives a state that meets it. -/
def Obligations.EveryStepKeepsTheInvariant : Prop :=
  ∀ s t : State, s.Inv → step s = .next t → t.Inv

/-- R155, R177, R178: a host that seeds each engine before it draws from it, and does not reset the core, never sees an
error: the run is safe at every step, for ever. -/
def Obligations.SeedingFirstIsSafe : Prop :=
  ∀ (s : State) (n : Nat), s.safe = true → seedsFirst s.lcgValid s.mtValid s.host = true →
    ∃ t, Host.Core.run core n s = .next t ∧ t.safe = true

/-! ## The LCG engine (40_lcg.md) -/

/-- R80: a word with `eng = 0`, `op = 0` is `LCG.SEED` of its `arg`. `LCG.SEED v` completes in every state; it stores all 32
bits of `v`, sets `lcg_valid`, answers `err = 0, data = 0` (and restarts the ghost count, R28); nothing else changes. -/
def Obligations.LcgSeedStoresTheOperand : Prop :=
  (∀ w : CmdWord, engField w = false → opField w = false → decode w = .lcgSeed (argField w)) ∧
  (∀ (v : Word) (s : State),
    exec (.lcgSeed v) s =
      .next { s with seed := v, lcgValid := true, lcgDraws := 0, rsp := some 0x000000000#33 })

/-- R81: a word with `eng = 0`, `op = 1` is `LCG.NEXT`, whatever its `arg`. On a seeded LCG engine it completes; the new `seed`
is the exact product reduced modulo `2^31`, and the response carries it (the ghost count advances, R28). On an unseeded one
it is answered `err = 1, data = 0`. Nothing else changes. -/
def Obligations.LcgNextMultipliesModulo : Prop :=
  (∀ w : CmdWord, engField w = false → opField w = true → decode w = .lcgNext) ∧
  (∀ s : State,
    (s.lcgValid = true → ∃ v : Word, v.toNat = 65539 * s.seed.toNat % 2147483648 ∧
      exec .lcgNext s = .next { s with seed := v, lcgDraws := s.lcgDraws + 1, rsp := some (packResponse false v) }) ∧
    (s.lcgValid = false → exec .lcgNext s = .next { s with rsp := some 0x100000000#33 }))

/-- R82, R83, R90(a): the product fits 49 bits (48 once the seed is below `2^31`), and the 49-bit product cut to its low 31
bits, a 31-bit truncating multiply and the shift-and-add form all give the value of the draw. -/
def Obligations.LcgDatapathsAgree : Prop :=
  ∀ x : Word,
    65539 * x.toNat < 2 ^ 49 ∧
    (x.toNat < 2147483648 → 65539 * x.toNat < 2 ^ 48) ∧
    lcgStep x = (((65539#49 * x.setWidth 49).extractLsb' 0 31).setWidth 32) ∧
    lcgStep x = (65539#31 * x.setWidth 31).setWidth 32 ∧
    (lcgStep x).toNat = (x.toNat * 65536 + x.toNat * 2 + x.toNat) % 2147483648

/-- R85: the data of a successful `LCG.NEXT` lies in `[0, 2^31)`, bit 31 is 0, it is the new seed; and once the seed is in
that range no command but an `LCG.SEED` takes it out. -/
def Obligations.LcgOutputBelowTwoToThe31 : Prop :=
  (∀ s : State, s.lcgValid = true → ∃ t r, exec .lcgNext s = .next t ∧ t.rsp = some r ∧ rspErr r = false ∧
    (rspData r).toNat < 2147483648 ∧ (rspData r).getLsbD 31 = false ∧ t.seed = rspData r) ∧
  (∀ (i : Instr) (s t : State), i.isLcgSeed = false → s.seed.toNat < 2147483648 → exec i s = .next t →
    t.seed.toNat < 2147483648)

/-- R86: after `LCG.SEED 0`, whatever commands of the other engine come between, every `LCG.NEXT` returns `err = 0,
data = 0` and leaves `seed = 0`: "a seed of 0 produces an output of 0 forever". -/
def Obligations.LcgZeroSeedGivesZeroForever : Prop :=
  ∀ (s u : State) (is : List Instr) (rs : List (Option RspWord)),
    is.all (fun i => !i.isLcgSeed) = true →
    runCommands (.lcgSeed 0 :: is) s = some (u, rs) →
    u.seed = 0 ∧ ∀ r ∈ responsesTo Instr.isLcg (.lcgSeed 0 :: is) rs, r = some 0x000000000#33

/-- R87: bit 31 of the seed influences no output, and nothing else of the seed is lost: two seeds give identical output
sequences exactly when their low 31 bits agree (so there are `2^31` sequences). -/
def Obligations.LcgSequenceDeterminedByLow31Bits : Prop :=
  ∀ v w : Word, (∀ k, 1 ≤ k → lcgOutput v k = lcgOutput w k) ↔ v.toNat % 2147483648 = w.toNat % 2147483648

/-- R88: the closed form. After `LCG.SEED v`, in any run with no other `LCG.SEED`, MT commands in between or not, the k-th
`LCG.NEXT` returns `(65539^k * v) mod 2^31`. -/
def Obligations.LcgClosedForm : Prop :=
  ∀ (s u : State) (v : Word) (is : List Instr) (rs : List (Option RspWord)),
    is.all (fun i => !i.isLcgSeed) = true →
    runCommands (.lcgSeed v :: is) s = some (u, rs) →
    responsesTo Instr.isLcg (.lcgSeed v :: is) rs =
      drawn 0 :: (List.range (is.filter Instr.isLcg).length).map fun k =>
        drawn (BitVec.ofNat 32 (65539 ^ (k + 1) * v.toNat % 2147483648))

/-- R89(a): the fixed points of the draw in `[0, 2^31)` are exactly 0 and `0x40000000`. -/
def Obligations.LcgFixedPoints : Prop :=
  ∀ x : Word, x.toNat < 2147483648 → (lcgStep x = x ↔ x = 0#32 ∨ x = 0x40000000#32)

/-- R89(b): the draw preserves the number of trailing zero bits of `seed[30:0]`. -/
def Obligations.LcgPreservesTrailingZeros : Prop :=
  ∀ (x : Word) (n : Nat), n ≤ 31 → (2 ^ n ∣ x.toNat % 2147483648 ↔ 2 ^ n ∣ (lcgStep x).toNat)

/-- R89(c): the draw is a bijection on `[0, 2^31)`. -/
def Obligations.LcgStepIsABijection : Prop :=
  ∀ y : Word, y.toNat < 2147483648 → ∃! x : Word, x.toNat < 2147483648 ∧ lcgStep x = y

/-- R90(b): three consecutive outputs satisfy `x3 = (6 * x2 - 9 * x1) mod 2^31`. -/
def Obligations.LcgThreeTermRelation : Prop :=
  ∀ x1 : Word, ((lcgStep (lcgStep x1)).toNat : Int) = (6 * ((lcgStep x1).toNat : Int) - 9 * (x1.toNat : Int)) % 2147483648

/-! ## The MT engine, seeding (41_mt_seed.md) -/

/-- R19, R40, R44: the array as a memory. A read after a write to the same index gives all 32 bits written, a write leaves
every other word alone, and two arrays that read alike everywhere are the same array. -/
def Obligations.ArrayIsAMemoryOfWords : Prop :=
  (∀ (a : MtArray) (i j : Index) (v : Word), memRead (memWrite a i v) j = if i = j then v else memRead a j) ∧
  (∀ a b : MtArray, (∀ i, memRead a i = memRead b i) → a = b)

/-- R100: a word with `eng = 1`, `op = 0` is `MT.SEED` of its `arg`. `MT.SEED v` completes in every state. Afterwards
`state[0] = v` and each `state[i]`, `i = 1, ..., 623`, is `(F * (state[i-1] XOR (state[i-1] >> 30)) + i) mod 2^32`;
`cursor = 0`, `mt_valid = 1`, the response is `err = 0, data = 0` (and the ghost counters are 0); nothing else changes. -/
def Obligations.MtSeedBuildsTheArray : Prop :=
  (∀ w : CmdWord, engField w = true → opField w = false → decode w = .mtSeed (argField w)) ∧
  (∀ (v : Word) (s : State), ∃ a : MtArray,
    exec (.mtSeed v) s = .next { s with
      state := a, cursor := 0, mtValid := true, mtDraws := 0, mtTwists := 0, rsp := some 0x000000000#33 } ∧
    memRead a 0 = v ∧
    ∀ i, 1 ≤ i → i ≤ 623 →
      (memRead a (Fin.ofNat 624 i)).toNat =
        (1812433253 * (memRead a (Fin.ofNat 624 (i - 1)) ^^^ (memRead a (Fin.ofNat 624 (i - 1)) >>> 30)).toNat + i) % 4294967296)

/-- R101: the seeding word by the exact 64-bit datapath and by a 32-bit truncating multiplier and adder is the same word;
product and sum stay below `2^64`, and the shifted word is the two top bits. -/
def Obligations.SeedingDatapathsAgree : Prop :=
  ∀ (p : Word) (i : Nat), i < 624 →
    seedWord p i = 1812433253#32 * (p ^^^ (p >>> 30)) + BitVec.ofNat 32 i ∧
    1812433253 * (p ^^^ (p >>> 30)).toNat + i < 2 ^ 64 ∧
    (p >>> 30).toNat ≤ 3 ∧
    (∀ k, 2 ≤ k → (p ^^^ (p >>> 30)).getLsbD k = p.getLsbD k)

/-- R105: the seeded array is never all zero. -/
def Obligations.SeededArrayIsNeverAllZero : Prop :=
  ∀ (v : Word) (s t : State), exec (.mtSeed v) s = .next t → ∃ i, memRead t.state i ≠ 0#32

/-! ## The MT engine, regeneration (42_mt_twist.md) -/

/-- R117: step `i` of the pass writes one word and leaves the other 623 alone. `y` joins bit 31 of the current word `i` with
bits 30 to 0 of word `(i+1) mod 624`; the word written is word `(i+397) mod 624` XOR `(y >> 1)`, and XOR `0x9908B0DF` besides
when `y` is odd; the three reads are of the array before the write. -/
def Obligations.TwistStepWritesOneWord : Prop :=
  ∀ (a : MtArray) (i : Nat), i < 624 →
    (∀ j : Index, j.val ≠ i → memRead (twistStep a i) j = memRead a j) ∧
    ∃ y v : Word,
      y.getLsbD 31 = (memRead a (Fin.ofNat 624 i)).getLsbD 31 ∧
      (∀ k, k < 31 → y.getLsbD k = (memRead a (Fin.ofNat 624 (i + 1))).getLsbD k) ∧
      v = memRead a (Fin.ofNat 624 (i + 397)) ^^^ (y >>> 1) ∧
      memRead (twistStep a i) (Fin.ofNat 624 i) = (if y.getLsbD 0 then v ^^^ 0x9908B0DF#32 else v)

/-- R120, R121: the parity test may be made on the next word directly, and the conditional XOR is a selection between two
constants. -/
def Obligations.TwistSelectsByParityOfTheNextWord : Prop :=
  ∀ cur next ahead : Word,
    (isOdd (twistY cur next) = true ↔ next.toNat % 2 = 1) ∧
    twistWord cur next ahead =
      ahead ^^^ (twistY cur next >>> 1) ^^^ (if next.getLsbD 0 then 0x9908B0DF#32 else 0x00000000#32)

/-- R118, R119: which reads of the pass see old words and which see new ones. With `b` the array after the pass over `a`,
words 0 to 226 come from old words alone; words 227 to 622 from two old words and the NEW word 227 places back; word 623
from the old word 623 and the NEW words 0 and 396. -/
def Obligations.TwistReadsOldAndNewWords : Prop :=
  ∀ a : MtArray,
    (∀ i, i ≤ 226 → memRead (twist a) (Fin.ofNat 624 i) =
      twistWord (memRead a (Fin.ofNat 624 i)) (memRead a (Fin.ofNat 624 (i + 1))) (memRead a (Fin.ofNat 624 (i + 397)))) ∧
    (∀ i, 227 ≤ i → i ≤ 622 → memRead (twist a) (Fin.ofNat 624 i) =
      twistWord (memRead a (Fin.ofNat 624 i)) (memRead a (Fin.ofNat 624 (i + 1)))
        (memRead (twist a) (Fin.ofNat 624 (i - 227)))) ∧
    memRead (twist a) 623 = twistWord (memRead a 623) (memRead (twist a) 0) (memRead (twist a) 396)

/-- R124: the incremental organisation (one twist step per draw) and the batch pass give the same outputs, for every array
with `cursor = 0` and every number of draws; and after every 624th draw they hold the same array. -/
def Obligations.IncrementalTwistGivesTheSameDraws : Prop :=
  ∀ (a : MtArray) (k : Nat),
    incrementalOutput (incrementalDraw^[k] (a, 0)) = batchOutput (batchDraw^[k] (a, 0)) ∧
    incrementalDraw^[624 * k] (a, 0) = batchDraw^[624 * k] (a, 0)

/-! ## The MT engine, extraction (43_mt_extract.md) -/

/-- R135: a word with `eng = 1`, `op = 1` is `MT.NEXT`, whatever its `arg`. On a seeded MT engine it completes. When `cursor`
is not 0 it tempers `state[cursor]` and advances the cursor, and the array is untouched; when `cursor` is 0 the pass runs
first, the word tempered is word 0 of the new array, and the array is left as the pass leaves it (the tempered word is not
written back). The response carries the tempered word (the ghost counters advance, R28). On an unseeded engine it is answered
`err = 1, data = 0`, and no pass runs. Nothing else changes. -/
def Obligations.MtNextRegeneratesReadsTempersAdvances : Prop :=
  (∀ w : CmdWord, engField w = true → opField w = true → decode w = .mtNext) ∧
  (∀ s : State,
    (s.mtValid = true → s.cursor ≠ 0 → exec .mtNext s = .next { s with
      cursor := Fin.ofNat 624 (s.cursor.val + 1), mtDraws := s.mtDraws + 1,
      rsp := some (packResponse false (temper (memRead s.state s.cursor))) }) ∧
    (s.mtValid = true → s.cursor = 0 → exec .mtNext s = .next { s with
      state := twist s.state, cursor := 1, mtDraws := s.mtDraws + 1, mtTwists := s.mtTwists + 1,
      rsp := some (packResponse false (temper (memRead (twist s.state) 0))) }) ∧
    (s.mtValid = false → exec .mtNext s = .next { s with rsp := some 0x100000000#33 }))

/-- R136: the tempering transform by arithmetic on numbers: a right shift is a division by a power of two, a left shift a
multiplication reduced modulo `2^32` (R16), in four stages each on the result of the one before. -/
def Obligations.TemperingIsFourShiftXorStages : Prop :=
  ∀ y0 : Word, ∃ y1 y2 y3 : Word,
    y1.toNat = y0.toNat ^^^ (y0.toNat / 2 ^ 11) ∧
    y2.toNat = y1.toNat ^^^ ((y1.toNat * 2 ^ 7 % 2 ^ 32) &&& 2636928640) ∧
    y3.toNat = y2.toNat ^^^ ((y2.toNat * 2 ^ 15 % 2 ^ 32) &&& 4022730752) ∧
    (temper y0).toNat = y3.toNat ^^^ (y3.toNat / 2 ^ 18)

/-- R138, R139: tempering is a bijection of the 32-bit words, and it takes 0 to 0. -/
def Obligations.TemperingIsABijection : Prop :=
  Function.Bijective temper ∧ temper 0x00000000#32 = 0x00000000#32

/-- R123, R140, R143, R144: after `MT.SEED v` and `n` draws, in any state and for any `n`, every response has `err = 0`,
`cursor = n mod 624`, and the number of passes run is `ceil(n / 624)`: 1 after 624 draws, 2 after 625. -/
def Obligations.CursorAndPassesAfterDraws : Prop :=
  ∀ (s : State) (v : Word) (n : Nat), ∃ t rs,
    runCommands (.mtSeed v :: List.replicate n .mtNext) s = some (t, rs) ∧
    rs.length = n + 1 ∧ (∀ r ∈ rs, ∃ x, r = drawn x) ∧
    t.mtValid = true ∧ t.cursor.val = n % 624 ∧ t.mtDraws = n ∧ t.mtTwists = (n + 623) / 624

/-- R140, R144: the closed form of the MT sequence. With `a` the array after `MT.SEED v`, the k-th draw (k = 1, 2, ...)
returns the tempered word `(k - 1) mod 624` of `a` after `ceil(k / 624)` passes; so the 625th output is the first output of
the second pass. -/
def Obligations.MtDrawIsTemperedWordOfItsPass : Prop :=
  ∀ (s t : State) (v : Word) (n : Nat), exec (.mtSeed v) s = .next t →
    ∃ u, runCommands (List.replicate n .mtNext) t =
      some (u, (List.range n).map fun k =>
        drawn (temper (memRead (twist^[k / 624 + 1] t.state) (Fin.ofNat 624 k))))

/-- R142: the data of the k-th `MT.NEXT` after `MT.SEED v` is a function of `v` and `k` alone, whatever state the core was in
and whatever LCG commands come between: two runs, from any two states, whose MT commands are `MT.SEED v` and then `n` draws
give the same responses to them. -/
def Obligations.MtSequenceIsAFunctionOfTheSeed : Prop :=
  ∀ (s s' u u' : State) (v : Word) (n : Nat) (is js : List Instr) (rs rs' : List (Option RspWord)),
    is.filter (fun i => !i.isLcg) = .mtSeed v :: List.replicate n .mtNext →
    js.filter (fun i => !i.isLcg) = .mtSeed v :: List.replicate n .mtNext →
    runCommands is s = some (u, rs) → runCommands js s' = some (u', rs') →
    responsesTo (fun i => !i.isLcg) is rs = responsesTo (fun i => !i.isLcg) js rs'

/-- R91, R143, R155: once both engines are seeded, no list of commands, of any length and in any order, gets an error. -/
def Obligations.SeededEnginesNeverFail : Prop :=
  ∀ (is : List Instr) (s : State), s.lcgValid = true → s.mtValid = true →
    ∃ u rs, runCommands is s = some (u, rs) ∧ rs.length = is.length ∧ ∀ r ∈ rs, ∃ x, r = drawn x

/-! ## What a host does around the commands (30_encoding.md section 7) -/

/-- R68, R103: a host integer and that integer plus any multiple of `2^32` form the same seed command, a negative one by its
two's complement, and every operand can be formed. -/
def Obligations.HostSeedReductionIsModulo : Prop :=
  (∀ (now s k : Int), newMt now (some (s + k * 4294967296)) = newMt now (some s) ∧
    newLcg now (some (s + k * 4294967296)) = newLcg now (some s)) ∧
  (∀ (now : Int) (v : Word), newMt now (some (v.toNat : Int)) = .mtSeed v ∧ newLcg now (some (v.toNat : Int)) = .lcgSeed v) ∧
  (∀ (now : Int) (v : Word), newMt now (some (-(v.toNat : Int))) = .mtSeed (-v))

/-- R69, U10: an index drawn by a consumer lies below the length; a host refuses length 0. -/
def Obligations.DrawnIndexLiesBelowTheLength : Prop :=
  ∀ (data : Word) (len : Nat),
    (drawIndex data len = none ↔ len = 0) ∧
    (∀ i, drawIndex data len = some i → i < len ∧ ∃ q, data.toNat = q * len + i)

/-- R70: an assembler immediate. `0x` and 1 to 8 hexadecimal digits always denote a 32-bit operand; a decimal number denotes
itself when it lies in `[0, 2^32)` and is an error, not a truncation, when it does not. Which characters are hexadecimal
digits is the model's reading (log entry 13). -/
def Obligations.AssemblerImmediatesAreNeverTruncated : Prop :=
  (∀ (ds : List Char) (n : Nat), 1 ≤ ds.length → ds.length ≤ 8 → readDigits 16 ds 0 = some n →
    n < 4294967296 ∧ readImm32 ('0' :: 'x' :: ds) = some (BitVec.ofNat 32 n)) ∧
  (∀ (ds : List Char) (n : Nat), ds ≠ [] → readDigits 10 ds 0 = some n →
    readImm32 ds = (if n < 4294967296 then some (BitVec.ofNat 32 n) else none))

/-- R69, U10: `DRAW.INDEX eng, len` runs `eng.NEXT` in the core and no more, so the core's next state is that of the draw
and does not depend on `len`. From a seeded engine the host has `data mod len`: of the new `seed` of the LCG engine, of the
tempered word the cursor named of the MT engine. It refuses `len = 0` after the draw, and has no index from a draw the core
refused; these two readings are the model's (log entry 18). -/
def Obligations.DrawIndexRunsTheDrawAndReducesItsData : Prop :=
  ∀ (len : Nat) (s : State),
    (∃ t, exec .lcgNext s = .next t ∧ execDrawIndex .lcg len s =
      .next (t, if s.lcgValid = true ∧ len ≠ 0 then some (t.seed.toNat % len) else none)) ∧
    (∃ t, exec .mtNext s = .next t ∧ execDrawIndex .mt len s =
      .next (t, if s.mtValid = true ∧ len ≠ 0 then some ((temper (memRead t.state s.cursor)).toNat % len) else none))
end

