-- ==== Sys2Proof/Laws/Encoding.lean ====
section
/-! SUPPORT. The fields of packed words, and what the decoder answers for each pair of opcode bits. -/

namespace Sys2Proof

@[simp] theorem engField_packCommand (e o : Bool) (a : Word) : engField (packCommand e o a) = e := by
  simp [engField, packCommand]

@[simp] theorem opField_packCommand (e o : Bool) (a : Word) : opField (packCommand e o a) = o := by
  simp [opField, packCommand]

@[simp] theorem argField_packCommand (e o : Bool) (a : Word) : argField (packCommand e o a) = a := by
  ext i hi
  have h1 : i < 33 := by omega
  have h2 : i < 34 := by omega
  simp [argField, packCommand, h1, h2, hi]

@[simp] theorem rspErr_packResponse (e : Bool) (d : Word) : rspErr (packResponse e d) = e := by
  simp [rspErr, packResponse]

@[simp] theorem rspData_packResponse (e : Bool) (d : Word) : rspData (packResponse e d) = d := by
  ext i hi
  have h1 : i < 33 := by omega
  simp [rspData, packResponse, h1, hi]

/-- The error response of R157 as the spec writes it out. -/
theorem packResponse_error : packResponse true 0 = 0x100000000#33 := rfl

/-- The acknowledgement of a SEED as the spec writes it out. -/
theorem packResponse_ack : packResponse false 0 = 0x000000000#33 := rfl

/-- The decoder by the two opcode bits (R61, R63). -/
theorem decode_cases (w : CmdWord) :
    (engField w = false ∧ opField w = false ∧ decode w = .lcgSeed (argField w)) ∨
    (engField w = false ∧ opField w = true ∧ decode w = .lcgNext) ∨
    (engField w = true ∧ opField w = false ∧ decode w = .mtSeed (argField w)) ∨
    (engField w = true ∧ opField w = true ∧ decode w = .mtNext) := by
  cases he : engField w <;> cases ho : opField w <;> simp [decode, he, ho]

/-- The mask of every row keeps bits 33 and 32 and no other (R63). -/
theorem mask_bit : ∀ i, i < 34 → (0x300000000#34).getLsbD i = decide (32 ≤ i) := by decide

/-- The two top bits that a row's mask leaves of a word (R63). -/
theorem mask_opcode (w : CmdWord) : w &&& 0x300000000#34 = packCommand (engField w) (opField w) 0 := by
  ext i hi
  rw [← BitVec.getLsbD_eq_getElem, ← BitVec.getLsbD_eq_getElem, BitVec.getLsbD_and, mask_bit i hi]
  have : i < 32 ∨ i = 32 ∨ i = 33 := by omega
  rcases this with h | rfl | rfl
  · have h1 : i < 33 := by omega
    have h2 : ¬ 32 ≤ i := by omega
    simp [packCommand, h, h1, h2]
  · simp [packCommand, engField, opField]
  · simp [packCommand, engField, opField]

/-- A packed word is canonical when it is a SEED or has `arg = 0` (R62). -/
theorem canonical_packCommand (e o : Bool) (a : Word) :
    CmdWord.canonical (packCommand e o a) = (!o || a == 0#32) := by
  have ho := opField_packCommand e o a
  have ha := argField_packCommand e o a
  unfold opField at ho
  unfold argField at ha
  rw [CmdWord.canonical, ho, ha]

end Sys2Proof
end

