-- ==== Sys2Proof/Laws/State.lean ====
section
/-! SUPPORT. What each named update of the state does to each field: one lemma per field per update, true by `rfl`, so
that no later proof unfolds a record update. -/

namespace Sys2Proof.Machine

@[simp] theorem setLcgValid_seed (s : State) : (setLcgValid s).seed = s.seed := rfl
@[simp] theorem setLcgValid_lcgValid (s : State) : (setLcgValid s).lcgValid = true := rfl
@[simp] theorem setLcgValid_state (s : State) : (setLcgValid s).state = s.state := rfl
@[simp] theorem setLcgValid_cursor (s : State) : (setLcgValid s).cursor = s.cursor := rfl
@[simp] theorem setLcgValid_mtValid (s : State) : (setLcgValid s).mtValid = s.mtValid := rfl
@[simp] theorem setLcgValid_lcgDraws (s : State) : (setLcgValid s).lcgDraws = s.lcgDraws := rfl
@[simp] theorem setLcgValid_mtDraws (s : State) : (setLcgValid s).mtDraws = s.mtDraws := rfl
@[simp] theorem setLcgValid_mtTwists (s : State) : (setLcgValid s).mtTwists = s.mtTwists := rfl
@[simp] theorem setLcgValid_rsp (s : State) : (setLcgValid s).rsp = s.rsp := rfl
@[simp] theorem setLcgValid_host (s : State) : (setLcgValid s).host = s.host := rfl
@[simp] theorem setLcgValid_received (s : State) : (setLcgValid s).received = s.received := rfl
@[simp] theorem setLcgValid_resets (s : State) : (setLcgValid s).resets = s.resets := rfl

@[simp] theorem setMtValid_seed (s : State) : (setMtValid s).seed = s.seed := rfl
@[simp] theorem setMtValid_lcgValid (s : State) : (setMtValid s).lcgValid = s.lcgValid := rfl
@[simp] theorem setMtValid_state (s : State) : (setMtValid s).state = s.state := rfl
@[simp] theorem setMtValid_cursor (s : State) : (setMtValid s).cursor = s.cursor := rfl
@[simp] theorem setMtValid_mtValid (s : State) : (setMtValid s).mtValid = true := rfl
@[simp] theorem setMtValid_lcgDraws (s : State) : (setMtValid s).lcgDraws = s.lcgDraws := rfl
@[simp] theorem setMtValid_mtDraws (s : State) : (setMtValid s).mtDraws = s.mtDraws := rfl
@[simp] theorem setMtValid_mtTwists (s : State) : (setMtValid s).mtTwists = s.mtTwists := rfl
@[simp] theorem setMtValid_rsp (s : State) : (setMtValid s).rsp = s.rsp := rfl
@[simp] theorem setMtValid_host (s : State) : (setMtValid s).host = s.host := rfl
@[simp] theorem setMtValid_received (s : State) : (setMtValid s).received = s.received := rfl
@[simp] theorem setMtValid_resets (s : State) : (setMtValid s).resets = s.resets := rfl

@[simp] theorem clearValidFlags_seed (s : State) : (clearValidFlags s).seed = s.seed := rfl
@[simp] theorem clearValidFlags_lcgValid (s : State) : (clearValidFlags s).lcgValid = false := rfl
@[simp] theorem clearValidFlags_state (s : State) : (clearValidFlags s).state = s.state := rfl
@[simp] theorem clearValidFlags_cursor (s : State) : (clearValidFlags s).cursor = s.cursor := rfl
@[simp] theorem clearValidFlags_mtValid (s : State) : (clearValidFlags s).mtValid = false := rfl
@[simp] theorem clearValidFlags_lcgDraws (s : State) : (clearValidFlags s).lcgDraws = s.lcgDraws := rfl
@[simp] theorem clearValidFlags_mtDraws (s : State) : (clearValidFlags s).mtDraws = s.mtDraws := rfl
@[simp] theorem clearValidFlags_mtTwists (s : State) : (clearValidFlags s).mtTwists = s.mtTwists := rfl
@[simp] theorem clearValidFlags_rsp (s : State) : (clearValidFlags s).rsp = s.rsp := rfl
@[simp] theorem clearValidFlags_host (s : State) : (clearValidFlags s).host = s.host := rfl
@[simp] theorem clearValidFlags_received (s : State) : (clearValidFlags s).received = s.received := rfl
@[simp] theorem clearValidFlags_resets (s : State) : (clearValidFlags s).resets = s.resets := rfl

@[simp] theorem writeSeed_seed (v : Word) (s : State) : (writeSeed v s).seed = v := rfl
@[simp] theorem writeSeed_lcgValid (v : Word) (s : State) : (writeSeed v s).lcgValid = s.lcgValid := rfl
@[simp] theorem writeSeed_state (v : Word) (s : State) : (writeSeed v s).state = s.state := rfl
@[simp] theorem writeSeed_cursor (v : Word) (s : State) : (writeSeed v s).cursor = s.cursor := rfl
@[simp] theorem writeSeed_mtValid (v : Word) (s : State) : (writeSeed v s).mtValid = s.mtValid := rfl
@[simp] theorem writeSeed_lcgDraws (v : Word) (s : State) : (writeSeed v s).lcgDraws = s.lcgDraws := rfl
@[simp] theorem writeSeed_mtDraws (v : Word) (s : State) : (writeSeed v s).mtDraws = s.mtDraws := rfl
@[simp] theorem writeSeed_mtTwists (v : Word) (s : State) : (writeSeed v s).mtTwists = s.mtTwists := rfl
@[simp] theorem writeSeed_rsp (v : Word) (s : State) : (writeSeed v s).rsp = s.rsp := rfl
@[simp] theorem writeSeed_host (v : Word) (s : State) : (writeSeed v s).host = s.host := rfl
@[simp] theorem writeSeed_received (v : Word) (s : State) : (writeSeed v s).received = s.received := rfl
@[simp] theorem writeSeed_resets (v : Word) (s : State) : (writeSeed v s).resets = s.resets := rfl

@[simp] theorem writeArray_seed (a : MtArray) (s : State) : (writeArray a s).seed = s.seed := rfl
@[simp] theorem writeArray_lcgValid (a : MtArray) (s : State) : (writeArray a s).lcgValid = s.lcgValid := rfl
@[simp] theorem writeArray_state (a : MtArray) (s : State) : (writeArray a s).state = a := rfl
@[simp] theorem writeArray_cursor (a : MtArray) (s : State) : (writeArray a s).cursor = s.cursor := rfl
@[simp] theorem writeArray_mtValid (a : MtArray) (s : State) : (writeArray a s).mtValid = s.mtValid := rfl
@[simp] theorem writeArray_lcgDraws (a : MtArray) (s : State) : (writeArray a s).lcgDraws = s.lcgDraws := rfl
@[simp] theorem writeArray_mtDraws (a : MtArray) (s : State) : (writeArray a s).mtDraws = s.mtDraws := rfl
@[simp] theorem writeArray_mtTwists (a : MtArray) (s : State) : (writeArray a s).mtTwists = s.mtTwists := rfl
@[simp] theorem writeArray_rsp (a : MtArray) (s : State) : (writeArray a s).rsp = s.rsp := rfl
@[simp] theorem writeArray_host (a : MtArray) (s : State) : (writeArray a s).host = s.host := rfl
@[simp] theorem writeArray_received (a : MtArray) (s : State) : (writeArray a s).received = s.received := rfl
@[simp] theorem writeArray_resets (a : MtArray) (s : State) : (writeArray a s).resets = s.resets := rfl

@[simp] theorem writeCursor_seed (c : Index) (s : State) : (writeCursor c s).seed = s.seed := rfl
@[simp] theorem writeCursor_lcgValid (c : Index) (s : State) : (writeCursor c s).lcgValid = s.lcgValid := rfl
@[simp] theorem writeCursor_state (c : Index) (s : State) : (writeCursor c s).state = s.state := rfl
@[simp] theorem writeCursor_cursor (c : Index) (s : State) : (writeCursor c s).cursor = c := rfl
@[simp] theorem writeCursor_mtValid (c : Index) (s : State) : (writeCursor c s).mtValid = s.mtValid := rfl
@[simp] theorem writeCursor_lcgDraws (c : Index) (s : State) : (writeCursor c s).lcgDraws = s.lcgDraws := rfl
@[simp] theorem writeCursor_mtDraws (c : Index) (s : State) : (writeCursor c s).mtDraws = s.mtDraws := rfl
@[simp] theorem writeCursor_mtTwists (c : Index) (s : State) : (writeCursor c s).mtTwists = s.mtTwists := rfl
@[simp] theorem writeCursor_rsp (c : Index) (s : State) : (writeCursor c s).rsp = s.rsp := rfl
@[simp] theorem writeCursor_host (c : Index) (s : State) : (writeCursor c s).host = s.host := rfl
@[simp] theorem writeCursor_received (c : Index) (s : State) : (writeCursor c s).received = s.received := rfl
@[simp] theorem writeCursor_resets (c : Index) (s : State) : (writeCursor c s).resets = s.resets := rfl

@[simp] theorem countLcgSeed_seed (s : State) : (countLcgSeed s).seed = s.seed := rfl
@[simp] theorem countLcgSeed_lcgValid (s : State) : (countLcgSeed s).lcgValid = s.lcgValid := rfl
@[simp] theorem countLcgSeed_state (s : State) : (countLcgSeed s).state = s.state := rfl
@[simp] theorem countLcgSeed_cursor (s : State) : (countLcgSeed s).cursor = s.cursor := rfl
@[simp] theorem countLcgSeed_mtValid (s : State) : (countLcgSeed s).mtValid = s.mtValid := rfl
@[simp] theorem countLcgSeed_lcgDraws (s : State) : (countLcgSeed s).lcgDraws = 0 := rfl
@[simp] theorem countLcgSeed_mtDraws (s : State) : (countLcgSeed s).mtDraws = s.mtDraws := rfl
@[simp] theorem countLcgSeed_mtTwists (s : State) : (countLcgSeed s).mtTwists = s.mtTwists := rfl
@[simp] theorem countLcgSeed_rsp (s : State) : (countLcgSeed s).rsp = s.rsp := rfl
@[simp] theorem countLcgSeed_host (s : State) : (countLcgSeed s).host = s.host := rfl
@[simp] theorem countLcgSeed_received (s : State) : (countLcgSeed s).received = s.received := rfl
@[simp] theorem countLcgSeed_resets (s : State) : (countLcgSeed s).resets = s.resets := rfl

@[simp] theorem countLcgDraw_seed (s : State) : (countLcgDraw s).seed = s.seed := rfl
@[simp] theorem countLcgDraw_lcgValid (s : State) : (countLcgDraw s).lcgValid = s.lcgValid := rfl
@[simp] theorem countLcgDraw_state (s : State) : (countLcgDraw s).state = s.state := rfl
@[simp] theorem countLcgDraw_cursor (s : State) : (countLcgDraw s).cursor = s.cursor := rfl
@[simp] theorem countLcgDraw_mtValid (s : State) : (countLcgDraw s).mtValid = s.mtValid := rfl
@[simp] theorem countLcgDraw_lcgDraws (s : State) : (countLcgDraw s).lcgDraws = s.lcgDraws + 1 := rfl
@[simp] theorem countLcgDraw_mtDraws (s : State) : (countLcgDraw s).mtDraws = s.mtDraws := rfl
@[simp] theorem countLcgDraw_mtTwists (s : State) : (countLcgDraw s).mtTwists = s.mtTwists := rfl
@[simp] theorem countLcgDraw_rsp (s : State) : (countLcgDraw s).rsp = s.rsp := rfl
@[simp] theorem countLcgDraw_host (s : State) : (countLcgDraw s).host = s.host := rfl
@[simp] theorem countLcgDraw_received (s : State) : (countLcgDraw s).received = s.received := rfl
@[simp] theorem countLcgDraw_resets (s : State) : (countLcgDraw s).resets = s.resets := rfl

@[simp] theorem countMtSeed_seed (s : State) : (countMtSeed s).seed = s.seed := rfl
@[simp] theorem countMtSeed_lcgValid (s : State) : (countMtSeed s).lcgValid = s.lcgValid := rfl
@[simp] theorem countMtSeed_state (s : State) : (countMtSeed s).state = s.state := rfl
@[simp] theorem countMtSeed_cursor (s : State) : (countMtSeed s).cursor = s.cursor := rfl
@[simp] theorem countMtSeed_mtValid (s : State) : (countMtSeed s).mtValid = s.mtValid := rfl
@[simp] theorem countMtSeed_lcgDraws (s : State) : (countMtSeed s).lcgDraws = s.lcgDraws := rfl
@[simp] theorem countMtSeed_mtDraws (s : State) : (countMtSeed s).mtDraws = 0 := rfl
@[simp] theorem countMtSeed_mtTwists (s : State) : (countMtSeed s).mtTwists = 0 := rfl
@[simp] theorem countMtSeed_rsp (s : State) : (countMtSeed s).rsp = s.rsp := rfl
@[simp] theorem countMtSeed_host (s : State) : (countMtSeed s).host = s.host := rfl
@[simp] theorem countMtSeed_received (s : State) : (countMtSeed s).received = s.received := rfl
@[simp] theorem countMtSeed_resets (s : State) : (countMtSeed s).resets = s.resets := rfl

@[simp] theorem countMtDraw_seed (s : State) : (countMtDraw s).seed = s.seed := rfl
@[simp] theorem countMtDraw_lcgValid (s : State) : (countMtDraw s).lcgValid = s.lcgValid := rfl
@[simp] theorem countMtDraw_state (s : State) : (countMtDraw s).state = s.state := rfl
@[simp] theorem countMtDraw_cursor (s : State) : (countMtDraw s).cursor = s.cursor := rfl
@[simp] theorem countMtDraw_mtValid (s : State) : (countMtDraw s).mtValid = s.mtValid := rfl
@[simp] theorem countMtDraw_lcgDraws (s : State) : (countMtDraw s).lcgDraws = s.lcgDraws := rfl
@[simp] theorem countMtDraw_mtDraws (s : State) : (countMtDraw s).mtDraws = s.mtDraws + 1 := rfl
@[simp] theorem countMtDraw_mtTwists (s : State) : (countMtDraw s).mtTwists = s.mtTwists := rfl
@[simp] theorem countMtDraw_rsp (s : State) : (countMtDraw s).rsp = s.rsp := rfl
@[simp] theorem countMtDraw_host (s : State) : (countMtDraw s).host = s.host := rfl
@[simp] theorem countMtDraw_received (s : State) : (countMtDraw s).received = s.received := rfl
@[simp] theorem countMtDraw_resets (s : State) : (countMtDraw s).resets = s.resets := rfl

@[simp] theorem countMtTwist_seed (s : State) : (countMtTwist s).seed = s.seed := rfl
@[simp] theorem countMtTwist_lcgValid (s : State) : (countMtTwist s).lcgValid = s.lcgValid := rfl
@[simp] theorem countMtTwist_state (s : State) : (countMtTwist s).state = s.state := rfl
@[simp] theorem countMtTwist_cursor (s : State) : (countMtTwist s).cursor = s.cursor := rfl
@[simp] theorem countMtTwist_mtValid (s : State) : (countMtTwist s).mtValid = s.mtValid := rfl
@[simp] theorem countMtTwist_lcgDraws (s : State) : (countMtTwist s).lcgDraws = s.lcgDraws := rfl
@[simp] theorem countMtTwist_mtDraws (s : State) : (countMtTwist s).mtDraws = s.mtDraws := rfl
@[simp] theorem countMtTwist_mtTwists (s : State) : (countMtTwist s).mtTwists = s.mtTwists + 1 := rfl
@[simp] theorem countMtTwist_rsp (s : State) : (countMtTwist s).rsp = s.rsp := rfl
@[simp] theorem countMtTwist_host (s : State) : (countMtTwist s).host = s.host := rfl
@[simp] theorem countMtTwist_received (s : State) : (countMtTwist s).received = s.received := rfl
@[simp] theorem countMtTwist_resets (s : State) : (countMtTwist s).resets = s.resets := rfl

@[simp] theorem respond_seed (e : Bool) (d : Word) (s : State) : (respond e d s).seed = s.seed := rfl
@[simp] theorem respond_lcgValid (e : Bool) (d : Word) (s : State) : (respond e d s).lcgValid = s.lcgValid := rfl
@[simp] theorem respond_state (e : Bool) (d : Word) (s : State) : (respond e d s).state = s.state := rfl
@[simp] theorem respond_cursor (e : Bool) (d : Word) (s : State) : (respond e d s).cursor = s.cursor := rfl
@[simp] theorem respond_mtValid (e : Bool) (d : Word) (s : State) : (respond e d s).mtValid = s.mtValid := rfl
@[simp] theorem respond_lcgDraws (e : Bool) (d : Word) (s : State) : (respond e d s).lcgDraws = s.lcgDraws := rfl
@[simp] theorem respond_mtDraws (e : Bool) (d : Word) (s : State) : (respond e d s).mtDraws = s.mtDraws := rfl
@[simp] theorem respond_mtTwists (e : Bool) (d : Word) (s : State) : (respond e d s).mtTwists = s.mtTwists := rfl
@[simp] theorem respond_rsp (e : Bool) (d : Word) (s : State) : (respond e d s).rsp = some (packResponse e d) := rfl
@[simp] theorem respond_host (e : Bool) (d : Word) (s : State) : (respond e d s).host = s.host := rfl
@[simp] theorem respond_received (e : Bool) (d : Word) (s : State) : (respond e d s).received = s.received := rfl
@[simp] theorem respond_resets (e : Bool) (d : Word) (s : State) : (respond e d s).resets = s.resets := rfl

@[simp] theorem raiseUnseeded_seed (s : State) : (raiseUnseeded s).seed = s.seed := rfl
@[simp] theorem raiseUnseeded_lcgValid (s : State) : (raiseUnseeded s).lcgValid = s.lcgValid := rfl
@[simp] theorem raiseUnseeded_state (s : State) : (raiseUnseeded s).state = s.state := rfl
@[simp] theorem raiseUnseeded_cursor (s : State) : (raiseUnseeded s).cursor = s.cursor := rfl
@[simp] theorem raiseUnseeded_mtValid (s : State) : (raiseUnseeded s).mtValid = s.mtValid := rfl
@[simp] theorem raiseUnseeded_lcgDraws (s : State) : (raiseUnseeded s).lcgDraws = s.lcgDraws := rfl
@[simp] theorem raiseUnseeded_mtDraws (s : State) : (raiseUnseeded s).mtDraws = s.mtDraws := rfl
@[simp] theorem raiseUnseeded_mtTwists (s : State) : (raiseUnseeded s).mtTwists = s.mtTwists := rfl
@[simp] theorem raiseUnseeded_rsp (s : State) : (raiseUnseeded s).rsp = some (packResponse true 0) := rfl
@[simp] theorem raiseUnseeded_host (s : State) : (raiseUnseeded s).host = s.host := rfl
@[simp] theorem raiseUnseeded_received (s : State) : (raiseUnseeded s).received = s.received := rfl
@[simp] theorem raiseUnseeded_resets (s : State) : (raiseUnseeded s).resets = s.resets := rfl

@[simp] theorem writeHost_seed (h : List HostEvent) (s : State) : (writeHost h s).seed = s.seed := rfl
@[simp] theorem writeHost_lcgValid (h : List HostEvent) (s : State) : (writeHost h s).lcgValid = s.lcgValid := rfl
@[simp] theorem writeHost_state (h : List HostEvent) (s : State) : (writeHost h s).state = s.state := rfl
@[simp] theorem writeHost_cursor (h : List HostEvent) (s : State) : (writeHost h s).cursor = s.cursor := rfl
@[simp] theorem writeHost_mtValid (h : List HostEvent) (s : State) : (writeHost h s).mtValid = s.mtValid := rfl
@[simp] theorem writeHost_lcgDraws (h : List HostEvent) (s : State) : (writeHost h s).lcgDraws = s.lcgDraws := rfl
@[simp] theorem writeHost_mtDraws (h : List HostEvent) (s : State) : (writeHost h s).mtDraws = s.mtDraws := rfl
@[simp] theorem writeHost_mtTwists (h : List HostEvent) (s : State) : (writeHost h s).mtTwists = s.mtTwists := rfl
@[simp] theorem writeHost_rsp (h : List HostEvent) (s : State) : (writeHost h s).rsp = s.rsp := rfl
@[simp] theorem writeHost_host (h : List HostEvent) (s : State) : (writeHost h s).host = h := rfl
@[simp] theorem writeHost_received (h : List HostEvent) (s : State) : (writeHost h s).received = s.received := rfl
@[simp] theorem writeHost_resets (h : List HostEvent) (s : State) : (writeHost h s).resets = s.resets := rfl

@[simp] theorem runTwist_seed (s : State) : (runTwist s).seed = s.seed := by simp [runTwist]
@[simp] theorem runTwist_lcgValid (s : State) : (runTwist s).lcgValid = s.lcgValid := by simp [runTwist]
@[simp] theorem runTwist_state (s : State) : (runTwist s).state = twist s.state := by simp [runTwist]
@[simp] theorem runTwist_cursor (s : State) : (runTwist s).cursor = s.cursor := by simp [runTwist]
@[simp] theorem runTwist_mtValid (s : State) : (runTwist s).mtValid = s.mtValid := by simp [runTwist]
@[simp] theorem runTwist_lcgDraws (s : State) : (runTwist s).lcgDraws = s.lcgDraws := by simp [runTwist]
@[simp] theorem runTwist_mtDraws (s : State) : (runTwist s).mtDraws = s.mtDraws := by simp [runTwist]
@[simp] theorem runTwist_mtTwists (s : State) : (runTwist s).mtTwists = s.mtTwists + 1 := by simp [runTwist]
@[simp] theorem runTwist_rsp (s : State) : (runTwist s).rsp = s.rsp := by simp [runTwist]
@[simp] theorem runTwist_host (s : State) : (runTwist s).host = s.host := by simp [runTwist]
@[simp] theorem runTwist_received (s : State) : (runTwist s).received = s.received := by simp [runTwist]
@[simp] theorem runTwist_resets (s : State) : (runTwist s).resets = s.resets := by simp [runTwist]

@[simp] theorem extract_seed (s : State) : (extract s).seed = s.seed := rfl
@[simp] theorem extract_lcgValid (s : State) : (extract s).lcgValid = s.lcgValid := rfl
@[simp] theorem extract_state (s : State) : (extract s).state = s.state := rfl
@[simp] theorem extract_cursor (s : State) : (extract s).cursor = cursorNext s.cursor := rfl
@[simp] theorem extract_mtValid (s : State) : (extract s).mtValid = s.mtValid := rfl
@[simp] theorem extract_lcgDraws (s : State) : (extract s).lcgDraws = s.lcgDraws := rfl
@[simp] theorem extract_mtDraws (s : State) : (extract s).mtDraws = s.mtDraws + 1 := rfl
@[simp] theorem extract_mtTwists (s : State) : (extract s).mtTwists = s.mtTwists := rfl
@[simp] theorem extract_rsp (s : State) : (extract s).rsp = some (packResponse false (temper (memRead s.state s.cursor))) := rfl
@[simp] theorem extract_host (s : State) : (extract s).host = s.host := rfl
@[simp] theorem extract_received (s : State) : (extract s).received = s.received := rfl
@[simp] theorem extract_resets (s : State) : (extract s).resets = s.resets := rfl

@[simp] theorem applyReset_seed (s : State) : (applyReset s).seed = Config.unspecifiedSeed s.resets := rfl
@[simp] theorem applyReset_lcgValid (s : State) : (applyReset s).lcgValid = false := rfl
@[simp] theorem applyReset_state (s : State) : (applyReset s).state = Config.unspecifiedArray s.resets := rfl
@[simp] theorem applyReset_cursor (s : State) : (applyReset s).cursor = 0 := rfl
@[simp] theorem applyReset_mtValid (s : State) : (applyReset s).mtValid = false := rfl
@[simp] theorem applyReset_lcgDraws (s : State) : (applyReset s).lcgDraws = 0 := rfl
@[simp] theorem applyReset_mtDraws (s : State) : (applyReset s).mtDraws = 0 := rfl
@[simp] theorem applyReset_mtTwists (s : State) : (applyReset s).mtTwists = 0 := rfl
@[simp] theorem applyReset_rsp (s : State) : (applyReset s).rsp = none := rfl
@[simp] theorem applyReset_host (s : State) : (applyReset s).host = s.host := rfl
@[simp] theorem applyReset_received (s : State) : (applyReset s).received = s.received := rfl
@[simp] theorem applyReset_resets (s : State) : (applyReset s).resets = s.resets + 1 := rfl

/-- With no response on offer, taking one does nothing. -/
theorem takeResponse_of_none (s : State) (h : s.rsp = none) : takeResponse s = s := by
  simp [takeResponse, h]

/-- The response on offer goes to the host and the channel is idle; nothing else changes. -/
theorem takeResponse_of_some (s : State) (r : RspWord) (h : s.rsp = some r) :
    takeResponse s = { s with rsp := none, received := s.received ++ [r] } := by
  simp [takeResponse, h]

/-- After the host's taking the response channel is idle, whatever was on it. -/
@[simp] theorem takeResponse_rsp (s : State) : (takeResponse s).rsp = none := by
  cases h : s.rsp <;> simp [takeResponse, h]

/-- What the host has received afterwards. -/
@[simp] theorem takeResponse_received (s : State) : (takeResponse s).received = s.received ++ s.rsp.toList := by
  cases h : s.rsp <;> simp [takeResponse, h]

@[simp] theorem takeResponse_seed (s : State) : (takeResponse s).seed = s.seed := by
  cases h : s.rsp <;> simp [takeResponse, h]
@[simp] theorem takeResponse_lcgValid (s : State) : (takeResponse s).lcgValid = s.lcgValid := by
  cases h : s.rsp <;> simp [takeResponse, h]
@[simp] theorem takeResponse_state (s : State) : (takeResponse s).state = s.state := by
  cases h : s.rsp <;> simp [takeResponse, h]
@[simp] theorem takeResponse_cursor (s : State) : (takeResponse s).cursor = s.cursor := by
  cases h : s.rsp <;> simp [takeResponse, h]
@[simp] theorem takeResponse_mtValid (s : State) : (takeResponse s).mtValid = s.mtValid := by
  cases h : s.rsp <;> simp [takeResponse, h]
@[simp] theorem takeResponse_lcgDraws (s : State) : (takeResponse s).lcgDraws = s.lcgDraws := by
  cases h : s.rsp <;> simp [takeResponse, h]
@[simp] theorem takeResponse_mtDraws (s : State) : (takeResponse s).mtDraws = s.mtDraws := by
  cases h : s.rsp <;> simp [takeResponse, h]
@[simp] theorem takeResponse_mtTwists (s : State) : (takeResponse s).mtTwists = s.mtTwists := by
  cases h : s.rsp <;> simp [takeResponse, h]
@[simp] theorem takeResponse_host (s : State) : (takeResponse s).host = s.host := by
  cases h : s.rsp <;> simp [takeResponse, h]
@[simp] theorem takeResponse_resets (s : State) : (takeResponse s).resets = s.resets := by
  cases h : s.rsp <;> simp [takeResponse, h]

end Sys2Proof.Machine
end

