-- ==== Sys2Proof/Laws/Ops.lean ====
section
/-! SUPPORT. What the shared operations do, each said once: the array's read and write, the index forms, the sequential
loop, the choice of the next event at the interface, and the host's draw of an index. -/

namespace Sys2Proof.Machine

/-- A read after a write to the same index gives the value written (R19, R44). -/
@[simp] theorem memRead_memWrite_same (a : MtArray) (i : Index) (v : Word) : memRead (memWrite a i v) i = v := by
  simp [memRead, memWrite]

/-- A write leaves every other word alone (R40, R44). -/
theorem memRead_memWrite_ne (a : MtArray) {i j : Index} (v : Word) (h : i ≠ j) :
    memRead (memWrite a i v) j = memRead a j := by
  simp [memRead, memWrite, Fin.val_ne_of_ne h]

/-- Arrays that read alike everywhere are the same array (R26, R40). -/
theorem array_ext {a b : MtArray} (h : ∀ i, memRead a i = memRead b i) : a = b :=
  Vector.ext fun i hi => h ⟨i, hi⟩

/-- The number of the index a number is reduced to (R13, R43). -/
@[simp] theorem idx_val (n : Nat) : (idx n).val = n % 624 := rfl

/-- An index is the reduction of its own number. -/
@[simp] theorem idx_of_val (i : Index) : idx i.val = i := by
  ext; simp

/-- Two numbers below 624 give the same index only when they are the same number (R43). -/
theorem idx_inj {m n : Nat} (hm : m < 624) (hn : n < 624) : idx m = idx n ↔ m = n := by
  rw [Fin.ext_iff]
  simp only [idx_val]
  omega

/-- The loop over an empty range. -/
@[simp] theorem forRange_empty {α : Type} (lo : Nat) (body : α → Nat → α) (x : α) : forRange lo lo body x = x := by
  simp [forRange]

/-- The loop's last iteration. -/
theorem forRange_succ {α : Type} {lo hi : Nat} (h : lo ≤ hi) (body : α → Nat → α) (x : α) :
    forRange lo (hi + 1) body x = body (forRange lo hi body x) hi := by
  have e : hi + 1 - lo = (hi - lo) + 1 := by omega
  have f : lo + 1 * (hi - lo) = hi := by omega
  simp only [forRange, e, List.range'_concat, f, List.foldl_append, List.foldl_cons, List.foldl_nil]

/-- A loop cut in two. -/
theorem forRange_split {α : Type} {lo mid hi : Nat} (h : lo ≤ mid) (h' : mid ≤ hi) (body : α → Nat → α) (x : α) :
    forRange lo hi body x = forRange mid hi body (forRange lo mid body x) := by
  induction hi, h' using Nat.le_induction with
  | base => simp
  | succ n hn ih => rw [forRange_succ (h.trans hn), forRange_succ hn, ih]

/-- A property that holds at the start and that every iteration carries on holds at the end (R11, R19). -/
theorem forRange_induction {α : Type} (P : Nat → α → Prop) {lo hi : Nat} (h : lo ≤ hi) (body : α → Nat → α) (x : α)
    (start : P lo x) (next : ∀ i y, lo ≤ i → i < hi → P i y → P (i + 1) (body y i)) : P hi (forRange lo hi body x) := by
  have key : ∀ n, lo ≤ n → n ≤ hi → P n (forRange lo n body x) := by
    intro n hn
    induction n, hn using Nat.le_induction with
    | base => intro _; simpa using start
    | succ n hn ih =>
      intro hle
      rw [forRange_succ hn]
      exact next n _ hn hle (ih (by omega))
  exact key hi h le_rfl

/-- Offered commands are passed over; the first other event is the one that happens (log entry 7). -/
theorem firstNonCommand_commands_append (ws : List CmdWord) (rest : List HostEvent) :
    firstNonCommand (ws.map .command ++ rest) =
      (firstNonCommand rest).map fun p => (p.1, ws.map .command ++ p.2) := by
  induction ws with
  | nil => cases h : firstNonCommand rest <;> simp [h]
  | cons w ws ih => simp [firstNonCommand, ih, Option.map_map, Function.comp_def]

/-- With the core ready, the host's first event is the one that happens (R72). -/
theorem nextHostEvent_ready (s : State) (e : HostEvent) (rest : List HostEvent) (h : s.rsp = none)
    (hh : s.host = e :: rest) : nextHostEvent s = some (e, rest) := by
  simp [nextHostEvent, cmdReady, h, hh]

/-- While a response waits, commands are held back (R72, R178). -/
theorem nextHostEvent_waiting (s : State) (r : RspWord) (h : s.rsp = some r) :
    nextHostEvent s = firstNonCommand s.host := by
  simp [nextHostEvent, cmdReady, h]

/-- No command is accepted while a response waits (R72). -/
theorem firstNonCommand_not_command (h : List HostEvent) (w : CmdWord) (rest : List HostEvent) :
    firstNonCommand h ≠ some (.command w, rest) := by
  induction h generalizing rest with
  | nil => simp [firstNonCommand]
  | cons e es ih =>
    cases e with
    | command v =>
      simp only [firstNonCommand, ne_eq, Option.map_eq_some_iff, Prod.mk.injEq, not_exists, not_and]
      intro p hp he
      obtain ⟨e, l⟩ := p
      simp only at he
      subst he
      exact absurd hp (ih l)
    | takeResponse => simp [firstNonCommand]
    | reset => simp [firstNonCommand]

/-- Everything a step can do: idle or wait, run the decoded command, hand the response to the host, or reset. -/
theorem step_cases (s : State) :
    (nextHostEvent s = none ∧ step s = .next s) ∨
    (∃ w rest, nextHostEvent s = some (.command w, rest) ∧ s.rsp = none ∧ s.host = .command w :: rest ∧
      step s = exec (decode w) (writeHost rest s)) ∨
    (∃ rest, nextHostEvent s = some (.takeResponse, rest) ∧ step s = .next (takeResponse (writeHost rest s))) ∨
    (∃ rest, nextHostEvent s = some (.reset, rest) ∧ step s = .next (applyReset (writeHost rest s))) := by
  rcases hn : nextHostEvent s with _ | ⟨e, rest⟩
  · exact .inl ⟨rfl, by simp [step, hn]⟩
  · cases e with
    | command w =>
      refine .inr (.inl ⟨w, rest, rfl, ?_⟩)
      cases hr : s.rsp with
      | some r =>
        rw [nextHostEvent_waiting s r hr] at hn
        exact absurd hn (firstNonCommand_not_command _ _ _)
      | none =>
        refine ⟨rfl, ?_, by simp [step, hn]⟩
        cases hh : s.host with
        | nil => simp [nextHostEvent, cmdReady, hr, hh] at hn
        | cons e es => simpa [nextHostEvent, cmdReady, hr, hh] using hn
    | takeResponse => exact .inr (.inr (.inl ⟨rest, rfl, by simp [step, hn]⟩))
    | reset => exact .inr (.inr (.inr ⟨rest, rfl, by simp [step, hn]⟩))

/-- Everything a command can do, in the terms of the named operations. -/
theorem exec_cases (i : Instr) (s : State) :
    (∃ v, i = .lcgSeed v ∧
      exec i s = .next (respond false 0 (countLcgSeed (setLcgValid (writeSeed v s))))) ∨
    (i = .lcgNext ∧ s.lcgValid = true ∧
      exec i s = .next (respond false (lcgStep s.seed) (countLcgDraw (writeSeed (lcgStep s.seed) s)))) ∨
    (∃ v, i = .mtSeed v ∧
      exec i s = .next (respond false 0 (countMtSeed (setMtValid (writeCursor (idx 0)
        (writeArray (mtSeedArray s.state v) s)))))) ∨
    (i = .mtNext ∧ s.mtValid = true ∧ s.cursor = 0 ∧ exec i s = .next (extract (runTwist s))) ∨
    (i = .mtNext ∧ s.mtValid = true ∧ s.cursor ≠ 0 ∧ exec i s = .next (extract s)) ∨
    (i = .lcgNext ∧ s.lcgValid = false ∧ exec i s = .next (raiseUnseeded s)) ∨
    (i = .mtNext ∧ s.mtValid = false ∧ exec i s = .next (raiseUnseeded s)) := by
  cases i with
  | lcgSeed v => exact .inl ⟨v, rfl, rfl⟩
  | mtSeed v => exact .inr (.inr (.inl ⟨v, rfl, rfl⟩))
  | lcgNext => cases h : s.lcgValid <;> simp [exec, execLcgNext, h]
  | mtNext =>
    cases h : s.mtValid
    · simp [exec, execMtNext, h]
    · by_cases hc : s.cursor = 0 <;> simp [exec, execMtNext, h, hc]

/-- A command leaves the host's side and the reset count alone, and is answered (R64). -/
theorem exec_channels {i : Instr} {s t : State} (h : exec i s = .next t) :
    t.host = s.host ∧ t.received = s.received ∧ t.resets = s.resets ∧ ∃ r, t.rsp = some r := by
  rcases exec_cases i s with ⟨_, _, h'⟩ | ⟨_, _, h'⟩ | ⟨_, _, h'⟩ | ⟨_, _, _, h'⟩ | ⟨_, _, _, h'⟩ | ⟨_, _, h'⟩ |
    ⟨_, _, h'⟩ <;>
  (rw [h] at h'; cases h'; simp)

/-- A command does not read the channels: on a state that differs in them alone it does the same to the rest. -/
theorem exec_ignores_channels {i : Instr} {s t : State} (h : List HostEvent) (rc : List RspWord) (rp : Option RspWord)
    (ht : exec i s = .next t) :
    exec i { s with host := h, received := rc, rsp := rp } = .next { t with host := h, received := rc } := by
  rcases exec_cases i s with ⟨_, rfl, h'⟩ | ⟨rfl, hv, h'⟩ | ⟨_, rfl, h'⟩ | ⟨rfl, hv, hc, h'⟩ | ⟨rfl, hv, hc, h'⟩ |
    ⟨rfl, hv, h'⟩ | ⟨rfl, hv, h'⟩ <;>
  (rw [ht] at h'; cases h')
  · rfl
  · rw [show exec .lcgNext { s with host := h, received := rc, rsp := rp } = .next _ from if_pos hv]
    rfl
  · rfl
  · rw [show exec .mtNext { s with host := h, received := rc, rsp := rp } = .next _ from if_pos hv]
    refine congrArg Host.Outcome.next ?_
    apply State.ext <;> simp [hc]
  · rw [show exec .mtNext { s with host := h, received := rc, rsp := rp } = .next _ from if_pos hv]
    rw [if_neg (show ¬({ s with host := h, received := rc, rsp := rp } : State).cursor = 0 from hc)]
    rfl
  · exact if_neg (by simp [hv])
  · exact if_neg (by simp [hv])

/-- A host refuses length 0 (U10). -/
@[simp] theorem drawIndex_zero (data : Word) : drawIndex data 0 = none := rfl

/-- The index is the remainder of the number drawn (R69). -/
theorem drawIndex_pos (data : Word) {len : Nat} (h : len ≠ 0) : drawIndex data len = some (data.toNat % len) := if_neg h

/-- A successful draw gives the index of its number (R65, R69). -/
@[simp] theorem responseIndex_drawn (data : Word) (len : Nat) :
    responseIndex (packResponse false data) len = drawIndex data len := by
  simp [responseIndex]

/-- A refused draw gives no index (log entry 18). -/
@[simp] theorem responseIndex_refused (data : Word) (len : Nat) : responseIndex (packResponse true data) len = none := by
  simp [responseIndex]

/-- Everything a `DRAW.INDEX` can do: the core runs `eng.NEXT` and no more, and the host reduces the data of its response
(R69). -/
theorem execDrawIndex_cases (eng : Engine) (len : Nat) (s : State) :
    ∃ t r, exec (engineNext eng) s = .next t ∧ t.rsp = some r ∧
      execDrawIndex eng len s = .next (t, responseIndex r len) := by
  have answered : ∃ t, exec (engineNext eng) s = .next t := by
    rcases exec_cases (engineNext eng) s with ⟨_, _, h⟩ | ⟨_, _, h⟩ | ⟨_, _, h⟩ | ⟨_, _, _, h⟩ | ⟨_, _, _, h⟩ |
      ⟨_, _, h⟩ | ⟨_, _, h⟩ <;> exact ⟨_, h⟩
  obtain ⟨t, ht⟩ := answered
  obtain ⟨_, _, _, r, hr⟩ := exec_channels ht
  exact ⟨t, r, ht, hr, by simp [execDrawIndex, ht, hr]⟩

end Sys2Proof.Machine
end

