-- ==== Sys2Proof/Laws/Lcg.lean ====
section
/-! SUPPORT. The LCG step as a number (R81 to R84). -/

namespace Sys2Proof.Machine

/-- The step's value: the exact product reduced modulo `2^31` (R81, R83). -/
theorem lcgStep_toNat (x : Word) : (lcgStep x).toNat = 65539 * x.toNat % 2147483648 := by
  simp only [lcgStep, toWord, absUnsigned, Config.lcgMul, Config.lcgMod, BitVec.toNat_ofNat]
  omega

/-- The step's range (R85). -/
theorem lcgStep_lt (x : Word) : (lcgStep x).toNat < 2147483648 := by
  rw [lcgStep_toNat]
  exact Nat.mod_lt _ (by decide)

end Sys2Proof.Machine
end

