-- ==== Sys2Proof/Laws/Mt.lean ====
section
/-! SUPPORT. What the seeding loop and the twist pass do, as far as every later proof needs it: the seeded array as a
recurrence on the seed alone, and which words a part of either loop can touch. -/

namespace Sys2Proof.Machine

/-- The words of the seeded array as a recurrence on the seed (R100, R104). -/
def seedSeq (v : Word) : Nat → Word
  | 0 => v
  | n + 1 => seedWord (seedSeq v n) (n + 1)

/-- An iteration of the seeding loop leaves every word but its own alone. -/
theorem memRead_seedStep_ne (a : MtArray) {i : Nat} {j : Index} (h : idx i ≠ j) : memRead (seedStep a i) j = memRead a j :=
  memRead_memWrite_ne a _ h

/-- After the seeding loop has reached `n`, every word below `n` is that of the recurrence (R102: the iterations form a
chain). -/
theorem seedLoop_read (a : MtArray) (v : Word) {n : Nat} (h1 : 1 ≤ n) (hn : n ≤ 624) :
    ∀ j, j < n → memRead (forRange 1 n seedStep (memWrite a (idx 0) v)) (idx j) = seedSeq v j := by
  refine forRange_induction (fun n b => ∀ j, j < n → memRead b (idx j) = seedSeq v j) h1 seedStep _ ?_ ?_
  · intro j hj
    obtain rfl : j = 0 := by omega
    simp [seedSeq]
  · intro i b hi hlt ih j hj
    by_cases hji : j = i
    · subst hji
      obtain ⟨k, rfl⟩ : ∃ k, j = k + 1 := ⟨j - 1, by omega⟩
      simp [seedStep, idxPrev, ih k (by omega), seedSeq]
    · have hne : idx i ≠ idx j := by
        rw [Ne, idx_inj (by omega) (by omega)]
        omega
      rw [memRead_seedStep_ne b hne]
      exact ih j (by omega)

/-- The seeded array, word by word: nothing of what the array held before is left (R100, R104). -/
theorem memRead_mtSeedArray (a : MtArray) (v : Word) (i : Index) : memRead (mtSeedArray a v) i = seedSeq v i.val := by
  have h := seedLoop_read a v (n := 624) (by omega) le_rfl i.val i.isLt
  rwa [idx_of_val] at h

/-- The seeded array is a function of the seed alone (R31, R104). -/
theorem mtSeedArray_forgets (a b : MtArray) (v : Word) : mtSeedArray a v = mtSeedArray b v :=
  array_ext fun i => (memRead_mtSeedArray a v i).trans (memRead_mtSeedArray b v i).symm

/-- A twist step leaves every word but its own alone (R117). -/
theorem memRead_twistStep_ne (a : MtArray) {i : Nat} {j : Index} (h : idx i ≠ j) :
    memRead (twistStep a i) j = memRead a j :=
  memRead_memWrite_ne a _ h

/-- What a twist step writes into its own word (R117). -/
theorem memRead_twistStep_same (a : MtArray) (i : Nat) :
    memRead (twistStep a i) (idx i) =
      twistWord (memRead a (idx i)) (memRead a (idxNext i)) (memRead a (idxAhead i)) := by
  simp [twistStep]

/-- The steps `lo, ..., hi - 1` of a pass leave the words outside that range alone (R118). -/
theorem twistSteps_keep (a : MtArray) {lo hi j : Nat} (hl : lo ≤ hi) (hh : hi ≤ 624) (hj : j < 624)
    (out : j < lo ∨ hi ≤ j) : memRead (forRange lo hi twistStep a) (idx j) = memRead a (idx j) := by
  refine forRange_induction (fun _ b => memRead b (idx j) = memRead a (idx j)) hl twistStep a rfl ?_
  intro i b hi' hlt ih
  have hne : idx i ≠ idx j := by
    rw [Ne, idx_inj (by omega) hj]
    omega
  rw [memRead_twistStep_ne b hne, ih]

/-- The word `j` of the array after the pass is the one step `j` wrote, in the array as the steps before left it: no later
step touches it (R118). -/
theorem memRead_twist (a : MtArray) {j : Nat} (hj : j < 624) :
    memRead (twist a) (idx j) = memRead (twistStep (forRange 0 j twistStep a) j) (idx j) := by
  unfold twist
  rw [forRange_split (mid := j + 1) (by omega) (show j + 1 ≤ 624 by omega), twistSteps_keep _ (by omega) le_rfl hj (.inl (by omega)),
    forRange_succ (by omega)]

end Sys2Proof.Machine
end

