-- ==== Sys2Proof/Laws/PerInstr.lean ====
section
/-! SUPPORT. Facts about every command as syntax, one lemma per constructor. -/

/-- The encoded word selects the command's own row of the opcode map (R63). -/
def Sys2Proof.Laws.SelectsItsRow.Statement (i : Sys2Proof.Instr) : Prop :=
  (Sys2Proof.rowOf i).selectedBy (Sys2Proof.encode i) = true

theorem Sys2Proof.Laws.SelectsItsRow.lcgSeed (v : Sys2Proof.Word) :
    Sys2Proof.Laws.SelectsItsRow.Statement (.lcgSeed v) := by
  simp [Statement, Sys2Proof.OpcodeRow.selectedBy, Sys2Proof.rowOf, Sys2Proof.rowLcgSeed, Sys2Proof.encode,
    Sys2Proof.mask_opcode]
  rfl

theorem Sys2Proof.Laws.SelectsItsRow.lcgNext : Sys2Proof.Laws.SelectsItsRow.Statement .lcgNext := by
  simp [Statement, Sys2Proof.OpcodeRow.selectedBy, Sys2Proof.rowOf, Sys2Proof.rowLcgNext, Sys2Proof.encode,
    Sys2Proof.mask_opcode]
  rfl

theorem Sys2Proof.Laws.SelectsItsRow.mtSeed (v : Sys2Proof.Word) :
    Sys2Proof.Laws.SelectsItsRow.Statement (.mtSeed v) := by
  simp [Statement, Sys2Proof.OpcodeRow.selectedBy, Sys2Proof.rowOf, Sys2Proof.rowMtSeed, Sys2Proof.encode,
    Sys2Proof.mask_opcode]
  rfl

theorem Sys2Proof.Laws.SelectsItsRow.mtNext : Sys2Proof.Laws.SelectsItsRow.Statement .mtNext := by
  simp [Statement, Sys2Proof.OpcodeRow.selectedBy, Sys2Proof.rowOf, Sys2Proof.rowMtNext, Sys2Proof.encode,
    Sys2Proof.mask_opcode]
  rfl

/-- The encoded word is one an assembler emits, and the command is well formed (R62, R66). -/
def Sys2Proof.Laws.EncodesCanonically.Statement (i : Sys2Proof.Instr) : Prop :=
  i.wellFormed = true ∧ Sys2Proof.CmdWord.canonical (Sys2Proof.encode i) = true

theorem Sys2Proof.Laws.EncodesCanonically.lcgSeed (v : Sys2Proof.Word) :
    Sys2Proof.Laws.EncodesCanonically.Statement (.lcgSeed v) :=
  ⟨rfl, by simp [Sys2Proof.encode, Sys2Proof.canonical_packCommand]⟩

theorem Sys2Proof.Laws.EncodesCanonically.lcgNext : Sys2Proof.Laws.EncodesCanonically.Statement .lcgNext :=
  ⟨rfl, by simp [Sys2Proof.encode, Sys2Proof.canonical_packCommand]⟩

theorem Sys2Proof.Laws.EncodesCanonically.mtSeed (v : Sys2Proof.Word) :
    Sys2Proof.Laws.EncodesCanonically.Statement (.mtSeed v) :=
  ⟨rfl, by simp [Sys2Proof.encode, Sys2Proof.canonical_packCommand]⟩

theorem Sys2Proof.Laws.EncodesCanonically.mtNext : Sys2Proof.Laws.EncodesCanonically.Statement .mtNext :=
  ⟨rfl, by simp [Sys2Proof.encode, Sys2Proof.canonical_packCommand]⟩
end

