-- ==== Sys2Proof/Tests/Slice0.lean ====
section
/-! SUPPORT. The model's own tests: the words and numbers are the spec's (95_test_vectors.md, and the worked examples of
the rules), cited at each; and for every statement with hypotheses, a concrete state and operands that meet them. -/

namespace Sys2Proof.Tests

open Sys2Proof.Machine

/-! ## Well-formedness: each check refuses an ill-formed term -/

/-- V45: a word no assembler emits. -/
theorem smoke_canonical_refuses : CmdWord.canonical 0x1DEADBEEF#34 = false := by decide

/-- R70: "A number outside `[0, 2^32)` is an assembler error". -/
theorem smoke_immediate_refuses : immInRange 4294967296 = false := by decide

/-- R66: every command is well formed. -/
theorem smoke_every_command_wellFormed : (Instr.mtSeed 0xFFFFFFFF#32).wellFormed = true ∧ Instr.lcgNext.wellFormed = true := by
  decide

/-! ## Decoding and encoding: words written out from R61 and R63 -/

/-- `eng = 0`, `op = 0`, then the 32 bits of 1. -/
theorem test_decode_lcgSeed : decode 0b0000000000000000000000000000000001#34 = .lcgSeed 1#32 := by decide

/-- `eng = 0`, `op = 1`, then 32 ignored bits. -/
theorem test_decode_lcgNext : decode 0b0111011110101011011011111011101111#34 = .lcgNext := by decide

/-- `eng = 1`, `op = 0`, then the 32 bits of 5489. -/
theorem test_decode_mtSeed : decode 0b1000000000000000000001010101110001#34 = .mtSeed 5489#32 := by decide

/-- `eng = 1`, `op = 1`, then 32 ignored bits. -/
theorem test_decode_mtNext : decode 0b1100000000000000000000000000000000#34 = .mtNext := by decide

/-- V45's encodings. -/
theorem test_encode : [Instr.lcgSeed 0xFFFFFFFF, .lcgNext, .mtSeed 5489, .mtNext].map encode =
    [0x0FFFFFFFF#34, 0x100000000#34, 0x200001571#34, 0x300000000#34] := by decide

/-- R60: a number of 35 bits is no command word, and is refused by name. -/
theorem test_decodeNumber_refuses : decodeNumber 0x400000000 = .error (.notACommandWord 0x400000000) := rfl

/-- The table's rows at 40 bits, the whole bytes that hold 34. -/
theorem test_decodeTableWord : decodeTableWord 40 0x300000000 = some .mtNext ∧
    decodeTableWord 40 0x80000001 = some (.lcgSeed 0x80000001#32) := by decide

/-- R63: no word selects two rows. -/
theorem test_rows_disjoint : opcodeTable.Pairwise (fun r r' => r.bits &&& r'.mask ≠ r'.bits) := by decide

/-- V45: the response words. -/
theorem test_response_words : packResponse false 0xD091BB5C#32 = 0x0D091BB5C#33 ∧
    packResponse true 0#32 = 0x100000000#33 := by decide

/-! ## The LCG engine -/

/-- The response of the state a command leaves. -/
def rspOf (o : Host.Outcome State Fault Refusal) : Option RspWord :=
  match o with
  | .next s => s.rsp
  | _ => none

/-- A core whose LCG engine was seeded with `v`. -/
def lcgSeeded (v : Word) : State := { State.reset with seed := v, lcgValid := true }

/-- A core whose MT engine is seeded, with array `a` and cursor `c`. -/
def mtSeeded (a : MtArray) (c : Index) : State := { State.reset with state := a, cursor := c, mtValid := true }

/-- An array of zeros but for a few words. -/
def arrayWith (ws : List (Nat × Word)) : MtArray :=
  ws.foldl (fun a p => memWrite a (idx p.1) p.2) (Vector.replicate 624 0)

/-- V13: the largest product, 49 bits, keeps its low 31. -/
theorem test_lcgNext_largest : rspOf (exec .lcgNext (lcgSeeded 0xFFFFFFFF)) = some 0x07FFEFFFD#33 := by decide

/-- V10, draw 2: the first that needs the reduction. -/
theorem test_lcgNext_reduces : rspOf (exec .lcgNext (lcgSeeded 65539)) = some 0x000060009#33 := by decide

/-- R80: bit 31 of the operand is stored. -/
theorem test_lcgSeed_keeps_bit31 : ∃ t, exec (.lcgSeed 0xFFFFFFFF) State.reset = .next t ∧ t.seed = 0xFFFFFFFF ∧
    t.lcgValid = true ∧ t.mtValid = false := ⟨_, rfl, rfl, rfl, rfl⟩

/-- V40, step 3. -/
theorem test_lcgNext_unseeded : rspOf (exec (decode 0x1FFFFFFFF#34) State.reset) = some 0x100000000#33 := by decide

/-! ## The MT engine -/

/-- V20: the last word of the array seeded from 5489. -/
theorem test_mtSeed_last_word : memRead (mtSeedArray State.reset.state 5489) (idx 623) = 0x04C46D8C := by
  rw [memRead_mtSeedArray]; decide +kernel

/-- V24: the shift is logical. -/
theorem test_mtSeed_logical_shift : memRead (mtSeedArray State.reset.state 0x80000000) (idx 1) = 0x580F12CB := by
  rw [memRead_mtSeedArray]; decide +kernel

/-- R126, the rows for `i` = 0, 1, 226 and 623. -/
theorem test_twistWord_rows :
    twistWord 0x00001571 0x4D98EE96 0xBDC68D6C = 0x9B0AFA27 ∧
    twistWord 0x4D98EE96 0xAF25F095 0x6707ABF4 = 0xE99DE361 ∧
    twistWord 0xAA736D50 0x9A49043D 0x04C46D8C = 0xD0E85F4D ∧
    twistWord 0x04C46D8C 0x9B0AFA27 0x453CCF7B = 0xD1B102B7 := by decide

/-- R126, `i = 623`: the indices wrap to 0 and 396. -/
theorem test_twistStep_wraps :
    memRead (twistStep (arrayWith [(623, 0x04C46D8C), (0, 0x9B0AFA27), (396, 0x453CCF7B)]) 623) (idx 623) = 0xD1B102B7 := by
  decide +kernel

/-- V26, four rows. -/
theorem test_temper_rows :
    temper 0x80000000 = 0x88102204 ∧ temper 0xFFFFFFFF = 0x6FE01BF8 ∧ temper 0x12345678 = 0x2B7E4A2D ∧
    temper 0xE99DE361 = 0x22AE9EF6 := by decide

/-- R135: with `cursor = 623` the draw tempers word 623 and sets `cursor` to 0 without regenerating; the array keeps the raw
word (R141; V26 gives the output). -/
theorem test_mtNext_wraps_without_pass : ∃ t,
    exec .mtNext (mtSeeded (arrayWith [(623, 0x9B0AFA27)]) 623) = .next t ∧
    t.cursor = 0 ∧ t.mtTwists = 0 ∧ t.rsp = some 0x0D091BB5C#33 ∧ memRead t.state 623 = 0x9B0AFA27 := by
  refine ⟨_, rfl, ?_, ?_, ?_, ?_⟩ <;> decide +kernel

/-- V1, the document's known vector: seed 5489, first output 3499211612. -/
theorem test_known_vector : rspOf (exec .mtNext (mtSeeded (mtSeedArray State.reset.state 5489) 0)) =
    some (packResponse false 3499211612#32) := by
  have h : memRead (twist (mtSeedArray State.reset.state 5489)) (idx 0) = 0x9B0AFA27#32 := by
    rw [memRead_twist _ (by decide), forRange_empty, memRead_twistStep_same]
    simp only [memRead_mtSeedArray]
    decide +kernel
  show some (packResponse false (temper (memRead (twist (mtSeedArray State.reset.state 5489)) (idx 0)))) = _
  rw [h]
  decide

/-- V1, the second output: 581869302, the word step 1 of the pass wrote. -/
theorem test_known_vector_second : temper (memRead (twist (mtSeedArray State.reset.state 5489)) (idx 1)) = 581869302#32 := by
  have h : memRead (twist (mtSeedArray State.reset.state 5489)) (idx 1) = 0xE99DE361#32 := by
    rw [memRead_twist _ (by decide), memRead_twistStep_same, twistSteps_keep _ (by decide) (by decide) (by decide) (by decide),
      show idxNext 1 = idx 2 from rfl, show idxAhead 1 = idx 398 from rfl,
      twistSteps_keep _ (by decide) (by decide) (by decide) (by decide),
      twistSteps_keep _ (by decide) (by decide) (by decide) (by decide)]
    simp only [memRead_mtSeedArray]
    decide +kernel
  rw [h]
  decide

/-- V40, step 2. -/
theorem test_mtNext_unseeded : rspOf (exec .mtNext State.reset) = some 0x100000000#33 := by decide

/-! ## The interface and the host -/

/-- The responses a host has received after `n` events. -/
def receivedAfter (n : Nat) (h : List HostEvent) : List RspWord :=
  match Host.Core.run core n { State.reset with host := h } with
  | .next (s : State) => s.received
  | _ => []

/-- P5's LCG lines: refused, then seeded and answered. -/
theorem test_refused_then_seeded : receivedAfter 6 (hostOf [.lcgNext, .lcgSeed 2, .lcgNext]) =
    [0x100000000#33, 0x000000000#33, 0x000020006#33] := by decide +kernel

/-- R72: the second command is held back until the first response has been taken. -/
theorem test_held_back : receivedAfter 3 [.command 0x000000002#34, .command 0x100000000#34, .takeResponse] =
    [0x000000000#33] := by decide +kernel

/-- R70: two lines of P1's listing, comments and all. -/
theorem test_assembler : readProgram
    ['L', 'C', 'G', '.', 'S', 'E', 'E', 'D', ' ', '0', 'x', '1', 'F', ' ', ';', 'c', '\n',
     'M', 'T', '.', 'N', 'E', 'X', 'T', '\n'] = some [.lcgSeed 31, .mtNext] := by decide

/-- R70: 4294967296 is an error, not a truncation. -/
theorem test_assembler_refuses : readImm32 ['4', '2', '9', '4', '9', '6', '7', '2', '9', '6'] = none ∧
    readImm32 ['4', '2', '9', '4', '9', '6', '7', '2', '9', '5'] = some 0xFFFFFFFF := by decide

/-- V24c: `NEW.MT 4294972785` and `NEW.MT -1`. -/
theorem test_newMt : newMt 0 (some 4294972785) = .mtSeed 5489 ∧ newMt 0 (some (-1)) = .mtSeed 0xFFFFFFFF := by decide

/-- P8: `393225 mod 51 = 15`. -/
theorem test_drawIndex : drawIndex 393225 51 = some 15 ∧ drawIndex 393225 0 = none := by decide

/-- P8, the second draw of the LCG engine and the third of the MT engine (V25 gives word 2 of the array). -/
theorem test_execDrawIndex :
    (∃ t, execDrawIndex .lcg 51 (lcgSeeded 65539) = .next (t, some 15) ∧ t.seed = 393225#32) ∧
    (∃ t, execDrawIndex .mt 50 (mtSeeded (arrayWith [(2, 0x87532B73)]) 2) = .next (t, some 34) ∧ t.cursor = 3) := by
  refine ⟨⟨_, rfl, ?_⟩, ⟨_, rfl, ?_⟩⟩ <;> decide +kernel

/-! ## Witnesses: states and operands that meet the hypotheses of the statements -/

/-- A core that offers a response. -/
def answering (r : RspWord) (h : List HostEvent) : State := { State.reset with rsp := some r, host := h }

/-- A core to which a host offers `h`. -/
def offered (h : List HostEvent) : State := { State.reset with host := h }

theorem witness_StepRunsTheDecodedCommand :
    (offered [.command 1#34]).rsp = none ∧ (offered [.command 1#34]).host = .command 1#34 :: [] := ⟨rfl, rfl⟩

theorem witness_FetchWordIsWhatRunsNext : 0x3FFFFFFFF < 2 ^ 34 := by decide

theorem witness_CommandsWaitWhileAResponseIsPending :
    (answering 7 [.command 1#34]).rsp = some 7 ∧ (answering 7 [.command 1#34]).host = [1#34].map .command ∧
    (answering 7 [.command 1#34, .takeResponse]).rsp = some 7 ∧
    (answering 7 [.command 1#34, .takeResponse]).host = [1#34].map .command ++ .takeResponse :: [] :=
  ⟨rfl, rfl, rfl, rfl⟩

theorem witness_ResetAbandonsTheCommandInFlight :
    ((answering 7 [.command 1#34, .reset]).rsp ≠ none ∧
      (answering 7 [.command 1#34, .reset]).host = [1#34].map .command ++ .reset :: []) ∧
    (offered [.reset]).host = ([] : List CmdWord).map .command ++ .reset :: [] :=
  ⟨⟨by simp [answering], rfl⟩, rfl⟩

theorem witness_IdleCoreHoldsItsState : State.reset.host = [] := rfl

theorem witness_AcceptedCommandIsAnswered :
    (offered [.command 1#34, .command 2#34, .takeResponse]).rsp = none ∧
    (offered [.command 1#34, .command 2#34, .takeResponse]).host =
      .command 1#34 :: ([2#34].map .command ++ .takeResponse :: []) := ⟨rfl, rfl⟩

theorem witness_OneResponsePerCommandInOrder : ∃ u,
    (offered [.command 5#34, .command 0x100000000#34, .takeResponse, .takeResponse]).rsp = none ∧
    (offered [.command 5#34, .command 0x100000000#34, .takeResponse, .takeResponse]).host =
      [5#34, 0x100000000#34].map .command ++ List.replicate [5#34, 0x100000000#34].length .takeResponse ∧
    runCommands ([5#34, 0x100000000#34].map decode)
      (offered [.command 5#34, .command 0x100000000#34, .takeResponse, .takeResponse]) =
      some (u, [0#33, 327695#33].map some) := ⟨_, rfl, rfl, rfl⟩

theorem witness_HostRunsItsCommandList : ∃ u,
    (offered (hostOf [.lcgSeed 5, .lcgNext])).rsp = none ∧
    (offered (hostOf [.lcgSeed 5, .lcgNext])).host = hostOf [.lcgSeed 5, .lcgNext] ∧
    runCommands [.lcgSeed 5, .lcgNext] (offered (hostOf [.lcgSeed 5, .lcgNext])) = some (u, [0#33, 327695#33].map some) :=
  ⟨_, rfl, rfl, rfl⟩

/-- The four kinds of answer: a SEED, a successful draw of each engine, a refused draw. -/
theorem witness_ResponseValuesPerCommand :
    (lcgSeeded 1).lcgValid = true ∧ (mtSeeded (arrayWith []) 623).mtValid = true ∧ State.reset.lcgValid = false ∧
    ∃ t, exec .lcgNext State.reset = .next t ∧ t.rsp = some 0x100000000#33 ∧ rspErr 0x100000000#33 = true :=
  ⟨rfl, rfl, rfl, _, rfl, rfl, by decide⟩

theorem witness_RefusedDrawsLeaveNoTrace : State.reset.lcgValid = false ∧ State.reset.mtValid = false := ⟨rfl, rfl⟩

theorem witness_FlagsChangeOnlyBySeedAndReset :
    (∃ t, step (offered [.command 1#34]) = .next t ∧ (offered [.command 1#34]).lcgValid = false ∧ t.lcgValid = true) ∧
    (∃ t, step (offered [.command 0x200000001#34]) = .next t ∧ (offered [.command 0x200000001#34]).mtValid = false ∧
      t.mtValid = true) ∧
    (∃ t, step { lcgSeeded 1 with host := [.reset] } = .next t ∧ (lcgSeeded 1).lcgValid = true ∧ t.lcgValid = false) ∧
    (∃ t, step { mtSeeded (arrayWith []) 5 with host := [.reset] } = .next t ∧
      (mtSeeded (arrayWith []) 5).mtValid = true ∧ t.mtValid = false) :=
  ⟨⟨_, rfl, rfl, rfl⟩, ⟨_, rfl, rfl, rfl⟩, ⟨_, rfl, rfl, rfl⟩, ⟨_, rfl, rfl, rfl⟩⟩

/-- A run in which the commands of the two engines alternate. -/
theorem witness_EnginesAreIndependent : ∃ u rs,
    runCommands [.lcgSeed 1, .mtSeed 2, .lcgNext, .mtNext] State.reset = some (u, rs) := ⟨_, _, rfl⟩

theorem witness_UnseededContentsAreNeverRead :
    (offered [.command 0x100000000#34]).AgreeSeeded { offered [.command 0x100000000#34] with seed := 99 } ∧
    ∃ t, step (offered [.command 0x100000000#34]) = .next t :=
  ⟨⟨fun h => (Bool.false_ne_true h).elim, fun _ => rfl, rfl⟩, _, rfl⟩

theorem witness_EveryStepKeepsTheInvariant : (offered [.command 1#34]).Inv ∧ ∃ t, step (offered [.command 1#34]) = .next t :=
  ⟨by constructor <;> simp [offered, State.reset], _, rfl⟩

theorem witness_SeedingFirstIsSafe :
    (offered (hostOf [.lcgSeed 1, .lcgNext])).safe = true ∧
    seedsFirst (offered (hostOf [.lcgSeed 1, .lcgNext])).lcgValid (offered (hostOf [.lcgSeed 1, .lcgNext])).mtValid
      (offered (hostOf [.lcgSeed 1, .lcgNext])).host = true := by decide

theorem witness_LcgSeedStoresTheOperand : engField 0x0FFFFFFFF#34 = false ∧ opField 0x0FFFFFFFF#34 = false := by decide

theorem witness_LcgNextMultipliesModulo :
    (engField 0x1DEADBEEF#34 = false ∧ opField 0x1DEADBEEF#34 = true) ∧
    (lcgSeeded 0xFFFFFFFF).lcgValid = true ∧ State.reset.lcgValid = false := ⟨by decide, rfl, rfl⟩

theorem witness_LcgDatapathsAgree : (0x7FFFFFFF#32).toNat < 2147483648 := by decide

theorem witness_LcgOutputBelowTwoToThe31 :
    (lcgSeeded 0xFFFFFFFF).lcgValid = true ∧
    Instr.isLcgSeed .lcgNext = false ∧ (lcgSeeded 0x7FFFFFFF).seed.toNat < 2147483648 ∧
    ∃ t, exec .lcgNext (lcgSeeded 0x7FFFFFFF) = .next t := ⟨rfl, rfl, by decide, _, rfl⟩

theorem witness_LcgZeroSeedGivesZeroForever : ∃ u rs,
    [Instr.lcgNext, .mtNext, .lcgNext].all (fun i => !i.isLcgSeed) = true ∧
    runCommands (.lcgSeed 0 :: [.lcgNext, .mtNext, .lcgNext]) State.reset = some (u, rs) := ⟨_, _, rfl, rfl⟩

theorem witness_LcgClosedForm : ∃ u rs,
    [Instr.lcgNext, .mtSeed 7, .lcgNext].all (fun i => !i.isLcgSeed) = true ∧
    runCommands (.lcgSeed 0xFFFFFFFF :: [.lcgNext, .mtSeed 7, .lcgNext]) State.reset = some (u, rs) := ⟨_, _, rfl, rfl⟩

theorem witness_LcgFixedPoints : (0x40000000#32).toNat < 2147483648 ∧ (0x7FFFFFFF#32).toNat < 2147483648 := by decide

theorem witness_LcgPreservesTrailingZeros : 31 ≤ 31 ∧ 0 ≤ 31 := by decide

theorem witness_LcgStepIsABijection : (0x7FFFFFFF#32).toNat < 2147483648 := by decide

theorem witness_MtSeedBuildsTheArray :
    (engField 0x280000000#34 = true ∧ opField 0x280000000#34 = false) ∧ (1 ≤ 1 ∧ 1 ≤ 623) ∧ (1 ≤ 623 ∧ 623 ≤ 623) := by
  decide

theorem witness_SeedingDatapathsAgree : 623 < 624 ∧ 2 ≤ 31 := by decide

theorem witness_SeededArrayIsNeverAllZero : ∃ t, exec (.mtSeed 0) State.reset = .next t := ⟨_, rfl⟩

theorem witness_TwistStepWritesOneWord : 623 < 624 ∧ ((0 : Index).val ≠ 623) ∧ 30 < 31 := by decide

theorem witness_TwistReadsOldAndNewWords :
    (0 ≤ 226 ∧ 226 ≤ 226) ∧ (227 ≤ 227 ∧ 227 ≤ 622) ∧ (227 ≤ 622 ∧ 622 ≤ 622) := by decide

theorem witness_MtNextRegeneratesReadsTempersAdvances :
    (engField 0x3FFFFFFFF#34 = true ∧ opField 0x3FFFFFFFF#34 = true) ∧
    ((mtSeeded (arrayWith []) 623).mtValid = true ∧ (mtSeeded (arrayWith []) 623).cursor ≠ 0) ∧
    ((mtSeeded (arrayWith []) 0).mtValid = true ∧ (mtSeeded (arrayWith []) 0).cursor = 0) ∧
    State.reset.mtValid = false := ⟨by decide, ⟨rfl, by decide⟩, ⟨rfl, rfl⟩, rfl⟩

theorem witness_MtDrawIsTemperedWordOfItsPass : ∃ t, exec (.mtSeed 5489) State.reset = .next t := ⟨_, rfl⟩

theorem witness_MtSequenceIsAFunctionOfTheSeed : ∃ u u' rs rs',
    [Instr.lcgNext, .mtSeed 1, .mtNext].filter (fun i => !i.isLcg) = .mtSeed 1 :: List.replicate 1 .mtNext ∧
    [Instr.mtSeed 1, .lcgSeed 3, .mtNext].filter (fun i => !i.isLcg) = .mtSeed 1 :: List.replicate 1 .mtNext ∧
    runCommands [.lcgNext, .mtSeed 1, .mtNext] State.reset = some (u, rs) ∧
    runCommands [.mtSeed 1, .lcgSeed 3, .mtNext] (lcgSeeded 9) = some (u', rs') :=
  ⟨_, _, _, _, rfl, rfl, rfl, rfl⟩

theorem witness_SeededEnginesNeverFail :
    ({ lcgSeeded 3 with mtValid := true } : State).lcgValid = true ∧
    ({ lcgSeeded 3 with mtValid := true } : State).mtValid = true := ⟨rfl, rfl⟩

theorem witness_DrawnIndexLiesBelowTheLength : drawIndex 65539 52 = some 19 := by decide

/-- Each engine seeded and unseeded, and the two lengths on either side of U10. -/
theorem witness_DrawIndexRunsTheDrawAndReducesItsData :
    (lcgSeeded 1).lcgValid = true ∧ (mtSeeded (arrayWith []) 5).mtValid = true ∧
    (State.reset.lcgValid = false ∧ State.reset.mtValid = false) ∧ (0 = 0 ∧ 1 ≠ 0) := by decide

theorem witness_AssemblerImmediatesAreNeverTruncated :
    readDigits 16 ['F', 'F', 'F', 'F', 'F', 'F', 'F', 'F'] 0 = some 4294967295 ∧
    readDigits 10 ['4', '2', '9', '4', '9', '6', '7', '2', '9', '6'] 0 = some 4294967296 := by decide

end Sys2Proof.Tests
end

section
/-! PROOFS. The statements of the scope family (00_scope.md): the array as a memory (R19, R40, R44), the two seeding
datapaths (R101), and the independence of the two engines (R30, R49). -/

namespace Sys2Proof.Machine

/-! ## The array as a memory -/

/-- A read after a write, by whether the two indices are the same (R19, R40, R44). -/
theorem memRead_memWrite (a : MtArray) (i j : Index) (v : Word) :
    memRead (memWrite a i v) j = if i = j then v else memRead a j := by
  split
  next h => rw [← h, memRead_memWrite_same]
  next h => exact memRead_memWrite_ne a v h

/-- Settles O37, from the read-after-write rule and the extensionality of the array. -/
theorem arrayIsAMemoryOfWords : Obligations.ArrayIsAMemoryOfWords :=
  ⟨memRead_memWrite, fun _ _ h => array_ext h⟩

/-! ## The seeding datapaths -/

/-- The seeding word by a 32-bit truncating multiplier and adder (R101): the one reduction at the end of the exact datapath
may as well be made after every operation. -/
theorem seedWord_eq_truncating (p : Word) (i : Nat) :
    seedWord p i = 1812433253#32 * (p ^^^ (p >>> 30)) + BitVec.ofNat 32 i := by
  have h : BitVec.ofNat 32 (p ^^^ (p >>> 30)).toNat = p ^^^ (p >>> 30) := by
    rw [BitVec.ofNat_toNat, BitVec.setWidth_eq]
  simp only [seedWord, toWord, shr, BitVec.ofNat_add, BitVec.ofNat_mul, h]

/-- The seeding shift leaves the two top bits of a word (R101). -/
theorem seedShift_toNat_le (p : Word) : (p >>> 30).toNat ≤ 3 := by
  rw [BitVec.toNat_ushiftRight, Nat.shiftRight_eq_div_pow]
  omega

/-- The XOR with the two top bits changes bits 1 and 0 at most (R101). -/
theorem getLsbD_xor_seedShift (p : Word) {k : Nat} (hk : 2 ≤ k) : (p ^^^ (p >>> 30)).getLsbD k = p.getLsbD k := by
  have h : p.getLsbD (30 + k) = false := BitVec.getLsbD_of_ge p _ (by omega)
  rw [BitVec.getLsbD_xor, BitVec.getLsbD_ushiftRight, h, Bool.xor_false]

/-- Product and sum of the exact seeding datapath fit 64 bits (R12, R101). -/
theorem seedSum_lt (t : Word) {i : Nat} (hi : i < 624) : 1812433253 * t.toNat + i < 2 ^ 64 := by
  omega

/-- Settles O39: `BitVec.ofNat` is a homomorphism for the two datapaths, and the bounds are those of 32-bit operands. -/
theorem seedingDatapathsAgree : Obligations.SeedingDatapathsAgree := fun p i hi =>
  ⟨seedWord_eq_truncating p i, seedSum_lt _ hi, seedShift_toNat_le p, fun _ hk => getLsbD_xor_seedShift p hk⟩

/-! ## What a run of commands does -/

/-- A run of `i :: is` is `exec i` followed by a run of `is` from the state it leaves (R49). -/
theorem runCommands_cons_eq_some {i : Instr} {is : List Instr} {s u : State} {rs : List (Option RspWord)} :
    runCommands (i :: is) s = some (u, rs) ↔
      ∃ t rs', exec i s = .next t ∧ runCommands is t = some (u, rs') ∧ rs = t.rsp :: rs' := by
  cases h : exec i s with
  | next t => simp [runCommands, h, and_comm, eq_comm]
  | fault f => simp [runCommands, h]
  | refused r => simp [runCommands, h]

section Views

variable {β : Type} {view : State → β} {sel : Instr → Bool}

/-- What every command of a list leaves unchanged, a run of the list leaves unchanged. -/
theorem runCommands_keeps {is : List Instr}
    (keeps : ∀ i ∈ is, ∀ s t, exec i s = .next t → view t = view s)
    {s u : State} {rs : List (Option RspWord)} (h : runCommands is s = some (u, rs)) : view u = view s := by
  induction is generalizing s rs with
  | nil =>
    cases h
    rfl
  | cons i is ih =>
    obtain ⟨t, rs', hi, his, -⟩ := runCommands_cons_eq_some.mp h
    have hu : view u = view t := ih (fun j hj => keeps j (List.mem_cons_of_mem i hj)) his
    exact hu.trans (keeps i List.mem_cons_self s t hi)

/-- Noninterference for one `view` of the state: if the commands `sel` selects read and answer from the view alone, and the
others leave it unchanged, then the others can be dropped from a run without the view or the selected responses showing it.
The two runs may start in different states with the same view, for a dropped command changes the rest of the state. -/
theorem runCommands_filter
    (selected : ∀ i s s' t, sel i = true → view s' = view s → exec i s = .next t →
      ∃ t', exec i s' = .next t' ∧ view t' = view t ∧ t'.rsp = t.rsp)
    (others : ∀ i s t, sel i = false → exec i s = .next t → view t = view s)
    (is : List Instr) {s s' u : State} {rs : List (Option RspWord)} (hv : view s' = view s)
    (h : runCommands is s = some (u, rs)) :
    ∃ t, runCommands (is.filter sel) s' = some (t, responsesTo sel is rs) ∧ view t = view u := by
  induction is generalizing s s' rs with
  | nil =>
    cases h
    exact ⟨s', rfl, hv⟩
  | cons i is ih =>
    obtain ⟨t, rs', hi, his, rfl⟩ := runCommands_cons_eq_some.mp h
    cases hs : sel i with
    | true =>
      obtain ⟨t', hi', hv', hr⟩ := selected i s s' t hs hv hi
      obtain ⟨w, hw, hwu⟩ := ih hv' his
      refine ⟨w, ?_, hwu⟩
      rw [List.filter_cons_of_pos hs, runCommands_cons_eq_some]
      exact ⟨t', _, hi', hw, by simp [responsesTo, hs, hr]⟩
    | false =>
      obtain ⟨w, hw, hwu⟩ := ih (hv.trans (others i s t hs hi).symm) his
      refine ⟨w, ?_, hwu⟩
      rw [List.filter_cons_of_neg (by simp [hs]), hw]
      simp [responsesTo, hs]

end Views

/-! ## The two engines -/

/-- What belongs to the LCG engine: its registers and its ghost counter (R21, R24, R28). -/
def lcgView (s : State) : Word × Bool × Nat := (s.seed, s.lcgValid, s.lcgDraws)

/-- What belongs to the MT engine: its array, its registers and its ghost counters (R22, R24, R26, R28). -/
def mtView (s : State) : MtArray × Index × Bool × Nat × Nat := (s.state, s.cursor, s.mtValid, s.mtDraws, s.mtTwists)

theorem lcgView_eq_iff {s t : State} :
    lcgView s = lcgView t ↔ s.seed = t.seed ∧ s.lcgValid = t.lcgValid ∧ s.lcgDraws = t.lcgDraws := by
  simp [lcgView]

theorem mtView_eq_iff {s t : State} :
    mtView s = mtView t ↔ s.state = t.state ∧ s.cursor = t.cursor ∧ s.mtValid = t.mtValid ∧
      s.mtDraws = t.mtDraws ∧ s.mtTwists = t.mtTwists := by
  simp [mtView]

/-- `LCG.NEXT` on a seeded engine (R81). -/
theorem exec_lcgNext_seeded {s : State} (h : s.lcgValid = true) :
    exec .lcgNext s = .next (respond false (lcgStep s.seed) (countLcgDraw (writeSeed (lcgStep s.seed) s))) := if_pos h

/-- `LCG.NEXT` on an unseeded engine (R156). -/
theorem exec_lcgNext_unseeded {s : State} (h : s.lcgValid = false) : exec .lcgNext s = .next (raiseUnseeded s) :=
  if_neg (by simp [h])

/-- `MT.NEXT` on a seeded engine (R135). -/
theorem exec_mtNext_seeded {s : State} (h : s.mtValid = true) :
    exec .mtNext s = .next (extract (if s.cursor = 0 then runTwist s else s)) := if_pos h

/-- `MT.NEXT` on an unseeded engine (R156). -/
theorem exec_mtNext_unseeded {s : State} (h : s.mtValid = false) : exec .mtNext s = .next (raiseUnseeded s) :=
  if_neg (by simp [h])

/-- An MT command leaves the LCG engine alone (R30). -/
theorem exec_mt_keeps_lcgView (i : Instr) (s t : State) (hi : i.isLcg = false) (h : exec i s = .next t) :
    lcgView t = lcgView s := by
  cases i with
  | lcgSeed v => cases hi
  | lcgNext => cases hi
  | mtSeed v =>
    cases h
    rfl
  | mtNext =>
    cases hs : s.mtValid with
    | true =>
      rw [exec_mtNext_seeded hs] at h
      cases h
      by_cases hc : s.cursor = 0 <;> simp [lcgView, hc]
    | false =>
      rw [exec_mtNext_unseeded hs] at h
      cases h
      rfl

/-- An LCG command leaves the MT engine alone (R30). -/
theorem exec_lcg_keeps_mtView (i : Instr) (s t : State) (hi : i.isLcg = true) (h : exec i s = .next t) :
    mtView t = mtView s := by
  cases i with
  | lcgSeed v =>
    cases h
    rfl
  | lcgNext =>
    cases hs : s.lcgValid with
    | true =>
      rw [exec_lcgNext_seeded hs] at h
      cases h
      rfl
    | false =>
      rw [exec_lcgNext_unseeded hs] at h
      cases h
      rfl
  | mtSeed v => cases hi
  | mtNext => cases hi

/-- What an LCG command does to its engine, and its response, depend on that engine alone (R2, R30). -/
theorem exec_lcg_of_lcgView_eq (i : Instr) (s s' t : State) (hi : i.isLcg = true) (hv : lcgView s' = lcgView s)
    (h : exec i s = .next t) : ∃ t', exec i s' = .next t' ∧ lcgView t' = lcgView t ∧ t'.rsp = t.rsp := by
  obtain ⟨hseed, hvalid, hdraws⟩ := lcgView_eq_iff.mp hv
  cases i with
  | lcgSeed v =>
    cases h
    exact ⟨_, rfl, rfl, rfl⟩
  | lcgNext =>
    cases hs : s.lcgValid with
    | true =>
      rw [exec_lcgNext_seeded hs] at h
      cases h
      exact ⟨_, exec_lcgNext_seeded (hvalid.trans hs), by simp [lcgView, hseed, hvalid, hdraws], by simp [hseed]⟩
    | false =>
      rw [exec_lcgNext_unseeded hs] at h
      cases h
      exact ⟨_, exec_lcgNext_unseeded (hvalid.trans hs), hv, rfl⟩
  | mtSeed v => cases hi
  | mtNext => cases hi

/-- What an MT command does to its engine, and its response, depend on that engine alone (R2, R30): the seeding loop
overwrites the old array, and a draw reads array and cursor only. -/
theorem exec_mt_of_mtView_eq (i : Instr) (s s' t : State) (hi : i.isLcg = false) (hv : mtView s' = mtView s)
    (h : exec i s = .next t) : ∃ t', exec i s' = .next t' ∧ mtView t' = mtView t ∧ t'.rsp = t.rsp := by
  obtain ⟨hstate, hcursor, hvalid, hdraws, htwists⟩ := mtView_eq_iff.mp hv
  cases i with
  | lcgSeed v => cases hi
  | lcgNext => cases hi
  | mtSeed v =>
    cases h
    exact ⟨_, rfl, by simp [mtView, mtSeedArray_forgets s'.state s.state], rfl⟩
  | mtNext =>
    cases hs : s.mtValid with
    | true =>
      rw [exec_mtNext_seeded hs] at h
      cases h
      refine ⟨_, exec_mtNext_seeded (hvalid.trans hs), ?_⟩
      by_cases hc : s.cursor = 0 <;> simp [mtView, hstate, hcursor, hvalid, hdraws, htwists, hc]
    | false =>
      rw [exec_mtNext_unseeded hs] at h
      cases h
      exact ⟨_, exec_mtNext_unseeded (hvalid.trans hs), hv, rfl⟩

/-- A run of LCG commands leaves the MT engine alone (R30). -/
theorem runCommands_lcg_keeps_mtView {is : List Instr} {s t : State} {rs : List (Option RspWord)}
    (h : runCommands (is.filter Instr.isLcg) s = some (t, rs)) : mtView t = mtView s :=
  runCommands_keeps (fun i hi s t => exec_lcg_keeps_mtView i s t (List.of_mem_filter hi)) h

/-- A run of MT commands leaves the LCG engine alone (R30). -/
theorem runCommands_mt_keeps_lcgView {is : List Instr} {s t : State} {rs : List (Option RspWord)}
    (h : runCommands (is.filter fun i => !i.isLcg) s = some (t, rs)) : lcgView t = lcgView s :=
  runCommands_keeps (fun i hi s t => exec_mt_keeps_lcgView i s t (by simpa using List.of_mem_filter hi)) h

/-- Settles O21: noninterference for each engine's view of the state, and the frame of the other engine's commands. -/
theorem enginesAreIndependent : Obligations.EnginesAreIndependent := by
  intro is s u rs h
  constructor
  · obtain ⟨t, ht, hv⟩ := runCommands_filter exec_lcg_of_lcgView_eq exec_mt_keeps_lcgView is rfl h
    obtain ⟨hseed, hvalid, hdraws⟩ := lcgView_eq_iff.mp hv
    obtain ⟨hstate, hcursor, hmt, -, -⟩ := mtView_eq_iff.mp (runCommands_lcg_keeps_mtView ht)
    exact ⟨t, ht, hseed, hvalid, hdraws, hstate, hcursor, hmt⟩
  · obtain ⟨t, ht, hv⟩ := runCommands_filter (sel := fun i => !i.isLcg)
      (fun i s s' t hi => exec_mt_of_mtView_eq i s s' t (by simpa using hi))
      (fun i s t hi => exec_lcg_keeps_mtView i s t (by simpa using hi)) is rfl h
    obtain ⟨hstate, hcursor, hmt, hdraws, htwists⟩ := mtView_eq_iff.mp hv
    obtain ⟨hseed, hvalid, -⟩ := lcgView_eq_iff.mp (runCommands_mt_keeps_lcgView ht)
    exact ⟨t, ht, hstate, hcursor, hmt, hdraws, htwists, hseed, hvalid⟩

end Sys2Proof.Machine
end

section
/-! PROOFS. The statements of the state family (10_state.md): what an unseeded engine holds is never read (R29, U1), the
invariant of every reachable state (R21, R24, R64, R123, R140), the valid flags and reset (R24, R175, R176), and the two
sequences as functions of the seed (R31, R88, R142). -/

namespace Sys2Proof.Machine

/-! ## The step, by the event that happens next -/

theorem step_of_idle {s : State} (h : nextHostEvent s = none) : step s = .next s := by
  simp [step, h]

theorem step_of_command {s : State} {w : CmdWord} {rest : List HostEvent}
    (h : nextHostEvent s = some (.command w, rest)) : step s = exec (decode w) (writeHost rest s) := by
  simp [step, h]

theorem step_of_takeResponse {s : State} {rest : List HostEvent}
    (h : nextHostEvent s = some (.takeResponse, rest)) : step s = .next (takeResponse (writeHost rest s)) := by
  simp [step, h]

theorem step_of_reset {s : State} {rest : List HostEvent}
    (h : nextHostEvent s = some (.reset, rest)) : step s = .next (applyReset (writeHost rest s)) := by
  simp [step, h]

/-! ## What an unseeded engine holds -/

/-- Two states agree when the second is the first with another `seed` and another array, each the same if its engine is
seeded (R29). -/
theorem agreeSeeded_iff {s s' : State} :
    s.AgreeSeeded s' ↔ ∃ (x : Word) (a : MtArray), (s.lcgValid = true → s.seed = x) ∧
      (s.mtValid = true → s.state = a) ∧ s' = { s with seed := x, state := a } := by
  constructor
  · rintro ⟨hseed, hstate, hrest⟩
    exact ⟨_, _, hseed, hstate, hrest⟩
  · rintro ⟨x, a, hseed, hstate, rfl⟩
    exact ⟨hseed, hstate, rfl⟩

/-- The event that happens next is chosen by the two channels alone (R72). -/
theorem nextHostEvent_of_agreeSeeded {s s' : State} (h : s.AgreeSeeded s') : nextHostEvent s' = nextHostEvent s := by
  rw [h.rest_eq]
  rfl

theorem writeHost_keeps_agreeSeeded {s s' : State} (h : s.AgreeSeeded s') (rest : List HostEvent) :
    (writeHost rest s).AgreeSeeded (writeHost rest s') := by
  obtain ⟨x, a, hseed, hstate, rfl⟩ := agreeSeeded_iff.mp h
  exact ⟨hseed, hstate, rfl⟩

theorem takeResponse_keeps_agreeSeeded {s s' : State} (h : s.AgreeSeeded s') :
    (takeResponse s).AgreeSeeded (takeResponse s') := by
  have hrsp : s'.rsp = s.rsp := by rw [h.rest_eq]
  cases hr : s.rsp with
  | none => rwa [takeResponse_of_none s hr, takeResponse_of_none s' (hrsp.trans hr)]
  | some r =>
    rw [takeResponse_of_some s r hr, takeResponse_of_some s' r (hrsp.trans hr)]
    obtain ⟨x, a, hseed, hstate, rfl⟩ := agreeSeeded_iff.mp h
    exact ⟨hseed, hstate, rfl⟩

/-- A reset un-seeds both engines, so nothing is asked of what it leaves in them (R175). -/
theorem applyReset_keeps_agreeSeeded {s s' : State} (h : s.AgreeSeeded s') : (applyReset s).AgreeSeeded (applyReset s') := by
  obtain ⟨x, a, -, -, rfl⟩ := agreeSeeded_iff.mp h
  exact ⟨fun _ => rfl, fun _ => rfl, rfl⟩

/-- A seed command overwrites what its engine held (R31, R104), a draw of a seeded engine reads the same in both states,
and a draw of an unseeded one reads nothing (R156). -/
theorem exec_keeps_agreeSeeded {i : Instr} {s s' t : State} (h : s.AgreeSeeded s') (hi : exec i s = .next t) :
    ∃ t', exec i s' = .next t' ∧ t.AgreeSeeded t' := by
  obtain ⟨x, a, hseed, hstate, rfl⟩ := agreeSeeded_iff.mp h
  cases i with
  | lcgSeed v =>
    cases hi
    exact ⟨_, rfl, fun _ => rfl, hstate, rfl⟩
  | mtSeed v =>
    cases hi
    exact ⟨_, rfl, hseed, fun _ => mtSeedArray_forgets s.state a v, rfl⟩
  | lcgNext =>
    obtain hv | hv := Bool.eq_false_or_eq_true s.lcgValid
    · obtain rfl := hseed hv
      cases (exec_lcgNext_seeded hv).symm.trans hi
      exact ⟨_, exec_lcgNext_seeded hv, fun _ => rfl, hstate, rfl⟩
    · cases (exec_lcgNext_unseeded hv).symm.trans hi
      exact ⟨_, exec_lcgNext_unseeded hv, hseed, hstate, rfl⟩
  | mtNext =>
    obtain hv | hv := Bool.eq_false_or_eq_true s.mtValid
    · obtain rfl := hstate hv
      cases (exec_mtNext_seeded hv).symm.trans hi
      refine ⟨_, exec_mtNext_seeded hv, ?_⟩
      by_cases hc : s.cursor = 0
      · rw [if_pos hc, if_pos hc]
        exact ⟨hseed, fun _ => rfl, rfl⟩
      · rw [if_neg hc, if_neg hc]
        exact ⟨hseed, fun _ => rfl, rfl⟩
    · cases (exec_mtNext_unseeded hv).symm.trans hi
      exact ⟨_, exec_mtNext_unseeded hv, hseed, hstate, rfl⟩

/-- Settles O22: both states see the same event, and every event keeps the agreement. -/
theorem unseededContentsAreNeverRead : Obligations.UnseededContentsAreNeverRead := by
  intro s s' t h hs
  have hevent := nextHostEvent_of_agreeSeeded h
  rcases step_cases s with ⟨hn, h'⟩ | ⟨w, rest, hn, -, -, h'⟩ | ⟨rest, hn, h'⟩ | ⟨rest, hn, h'⟩
  · rw [h'] at hs
    cases hs
    exact ⟨s', step_of_idle (hevent.trans hn), h⟩
  · rw [step_of_command (hevent.trans hn)]
    exact exec_keeps_agreeSeeded (writeHost_keeps_agreeSeeded h rest) (h'.symm.trans hs)
  · rw [h'] at hs
    cases hs
    exact ⟨_, step_of_takeResponse (hevent.trans hn), takeResponse_keeps_agreeSeeded (writeHost_keeps_agreeSeeded h rest)⟩
  · rw [h'] at hs
    cases hs
    exact ⟨_, step_of_reset (hevent.trans hn), applyReset_keeps_agreeSeeded (writeHost_keeps_agreeSeeded h rest)⟩

/-! ## The invariant -/

@[simp] theorem rspLegal_packResponse_ok (d : Word) : rspLegal (packResponse false d) = true := by
  simp [rspLegal]

@[simp] theorem rspLegal_packResponse_error : rspLegal (packResponse true 0) = true := by
  simp [rspLegal]

/-- Settles O23: no draw has been answered, and neither channel holds a response. -/
theorem invariantHoldsAtReset : Obligations.InvariantHoldsAtReset where
  seed_range h := absurd rfl h
  lcg_unseeded _ := rfl
  mt_unseeded _ := rfl
  cursor_eq := rfl
  twists_eq := rfl
  rsp_legal := rfl
  received_legal := rfl

theorem writeHost_keeps_inv {s : State} (h : s.Inv) (rest : List HostEvent) : (writeHost rest s).Inv := { h with }

theorem takeResponse_keeps_inv {s : State} (h : s.Inv) : (takeResponse s).Inv := by
  cases hr : s.rsp with
  | none => rwa [takeResponse_of_none s hr]
  | some r =>
    have hlegal : rspLegal r = true := by simpa [hr] using h.rsp_legal
    rw [takeResponse_of_some s r hr]
    exact { h with rsp_legal := rfl, received_legal := by simp [h.received_legal, hlegal] }

theorem applyReset_keeps_inv {s : State} (h : s.Inv) : (applyReset s).Inv where
  seed_range h := absurd rfl h
  lcg_unseeded _ := rfl
  mt_unseeded _ := rfl
  cursor_eq := rfl
  twists_eq := by simp
  rsp_legal := rfl
  received_legal := h.received_legal

theorem raiseUnseeded_keeps_inv {s : State} (h : s.Inv) : (raiseUnseeded s).Inv :=
  { h with rsp_legal := rspLegal_packResponse_error }

/-- A draw moves the cursor with the count of draws (R140). -/
theorem cursorNext_val_of_eq {c : Index} {n : Nat} (h : c.val = n % 624) : (cursorNext c).val = (n + 1) % 624 := by
  simp only [cursorNext, idx_val, h]
  omega

/-- Draws divided by 624 and rounded up: the number grows by one with the draw that starts a block of 624 (R123). -/
theorem passes_succ (n : Nat) : (n + 1 + 623) / 624 = (n + 623) / 624 + if n % 624 = 0 then 1 else 0 := by
  split <;> omega

/-- A command keeps the invariant: a draw that finds `cursor = 0` starts a block of 624 draws, and it runs the pass
(R115, R123). -/
theorem exec_keeps_inv {i : Instr} {s t : State} (h : s.Inv) (hi : exec i s = .next t) : t.Inv := by
  have hblock : s.cursor = 0 ↔ s.mtDraws % 624 = 0 := by rw [← h.cursor_eq, Fin.ext_iff]; rfl
  have hcursor := cursorNext_val_of_eq h.cursor_eq
  rcases exec_cases i s with ⟨v, -, h'⟩ | ⟨-, hv, h'⟩ | ⟨v, -, h'⟩ | ⟨-, hv, hc, h'⟩ | ⟨-, hv, hc, h'⟩ | ⟨-, -, h'⟩ |
    ⟨-, -, h'⟩ <;>
  (rw [hi] at h'; cases h')
  · exact { h with
      seed_range := fun hd => absurd rfl hd
      lcg_unseeded := fun _ => rfl
      rsp_legal := rspLegal_packResponse_ok _ }
  · exact { h with
      seed_range := fun _ => lcgStep_lt s.seed
      lcg_unseeded := fun hf => absurd (hv.symm.trans hf) (by decide)
      rsp_legal := rspLegal_packResponse_ok _ }
  · exact { h with
      mt_unseeded := fun _ => rfl
      cursor_eq := rfl
      twists_eq := by simp
      rsp_legal := rspLegal_packResponse_ok _ }
  · exact { h with
      mt_unseeded := fun hf => absurd (hv.symm.trans hf) (by decide)
      cursor_eq := hcursor
      twists_eq := by simp [passes_succ, h.twists_eq, hblock.mp hc]
      rsp_legal := rspLegal_packResponse_ok _ }
  · exact { h with
      mt_unseeded := fun hf => absurd (hv.symm.trans hf) (by decide)
      cursor_eq := hcursor
      twists_eq := by simp [passes_succ, h.twists_eq, mt hblock.mpr hc]
      rsp_legal := rspLegal_packResponse_ok _ }
  · exact raiseUnseeded_keeps_inv h
  · exact raiseUnseeded_keeps_inv h

/-- Settles O24: each kind of step keeps the invariant. -/
theorem everyStepKeepsTheInvariant : Obligations.EveryStepKeepsTheInvariant := by
  intro s t h hs
  rcases step_cases s with ⟨-, h'⟩ | ⟨w, rest, -, -, -, h'⟩ | ⟨rest, -, h'⟩ | ⟨rest, -, h'⟩ <;> rw [h'] at hs
  · cases hs
    exact h
  · exact exec_keeps_inv (writeHost_keeps_inv h rest) hs
  · cases hs
    exact takeResponse_keeps_inv (writeHost_keeps_inv h rest)
  · cases hs
    exact applyReset_keeps_inv (writeHost_keeps_inv h rest)

/-! ## Reset -/

/-- A reset passes the commands on offer while a response waits, and is the next event when none is offered before it
(R176, log entry 7). -/
theorem nextHostEvent_reset {s : State} {ws : List CmdWord} {rest : List HostEvent} (h : s.rsp ≠ none ∨ ws = [])
    (hh : s.host = ws.map .command ++ .reset :: rest) :
    nextHostEvent s = some (.reset, ws.map .command ++ rest) := by
  cases hr : s.rsp with
  | none =>
    obtain rfl : ws = [] := h.resolve_left (not_not_intro hr)
    exact nextHostEvent_ready s .reset rest hr hh
  | some r =>
    rw [nextHostEvent_waiting s r hr, hh, firstNonCommand_commands_append]
    rfl

/-- Settles O9: the reset is the next event, and `applyReset` clears what is listed. -/
theorem resetAbandonsTheCommandInFlight : Obligations.ResetAbandonsTheCommandInFlight :=
  fun _ _ _ h hh => ⟨_, step_of_reset (nextHostEvent_reset h hh), rfl, rfl, rfl, rfl, rfl, rfl, rfl, rfl, rfl⟩

/-- Settles O11: the reset state by its fields, and the refusal of a draw on an unseeded engine. -/
theorem resetLeavesBothEnginesUnseeded : Obligations.ResetLeavesBothEnginesUnseeded :=
  ⟨rfl, rfl, rfl, rfl, rfl, rfl, rfl, exec_lcgNext_unseeded rfl, exec_mtNext_unseeded rfl⟩

/-! ## The valid flags -/

/-- A command leaves `lcg_valid` alone, or it is an `LCG.SEED` and sets it (R24). -/
theorem exec_lcgValid {i : Instr} {s t : State} (h : exec i s = .next t) :
    t.lcgValid = s.lcgValid ∨ (∃ v, i = .lcgSeed v) ∧ t.lcgValid = true := by
  rcases exec_cases i s with ⟨v, hi, h'⟩ | ⟨-, -, h'⟩ | ⟨v, -, h'⟩ | ⟨-, -, -, h'⟩ | ⟨-, -, -, h'⟩ | ⟨-, -, h'⟩ |
    ⟨-, -, h'⟩ <;>
  (rw [h] at h'; cases h')
  · exact .inr ⟨⟨v, hi⟩, rfl⟩
  all_goals exact .inl rfl

/-- A command leaves `mt_valid` alone, or it is an `MT.SEED` and sets it (R24). -/
theorem exec_mtValid {i : Instr} {s t : State} (h : exec i s = .next t) :
    t.mtValid = s.mtValid ∨ (∃ v, i = .mtSeed v) ∧ t.mtValid = true := by
  rcases exec_cases i s with ⟨v, -, h'⟩ | ⟨-, -, h'⟩ | ⟨v, hi, h'⟩ | ⟨-, -, -, h'⟩ | ⟨-, -, -, h'⟩ | ⟨-, -, h'⟩ |
    ⟨-, -, h'⟩ <;>
  (rw [h] at h'; cases h')
  · exact .inl rfl
  · exact .inl rfl
  · exact .inr ⟨⟨v, hi⟩, rfl⟩
  all_goals exact .inl rfl

/-- A flag that a command changes only by setting it in its seed command, that the host's taking leaves alone and a reset
clears, changes in a step by that seed command and by a reset alone (R24). -/
theorem step_flag {flag : State → Bool} {seedCommand : Word → Instr}
    (onExec : ∀ i s t, exec i s = .next t → flag t = flag s ∨ (∃ v, i = seedCommand v) ∧ flag t = true)
    (onHost : ∀ s rest, flag (writeHost rest s) = flag s)
    (onTake : ∀ s, flag (takeResponse s) = flag s) (onReset : ∀ s, flag (applyReset s) = false)
    {s t : State} (h : step s = .next t) :
    (flag s = false → flag t = true →
      ∃ w rest v, nextHostEvent s = some (.command w, rest) ∧ decode w = seedCommand v) ∧
    (flag s = true → flag t = false → ∃ rest, nextHostEvent s = some (.reset, rest)) := by
  rcases step_cases s with ⟨-, h'⟩ | ⟨w, rest, hn, -, -, h'⟩ | ⟨rest, -, h'⟩ | ⟨rest, hn, h'⟩ <;> rw [h'] at h
  · cases h
    simp +contextual
  · rcases onExec _ _ _ h with hf | ⟨⟨v, hv⟩, hf⟩
    · rw [onHost] at hf
      simp +contextual [hf]
    · exact ⟨fun _ _ => ⟨w, rest, v, hn, hv⟩, fun _ hc => absurd (hf.symm.trans hc) (by decide)⟩
  · cases h
    simp +contextual [onTake, onHost]
  · cases h
    exact ⟨fun _ hc => absurd ((onReset _).symm.trans hc) (by decide), fun _ _ => ⟨rest, hn⟩⟩

/-- Settles O18: `step_flag` for the flag of each engine. -/
theorem flagsChangeOnlyBySeedAndReset : Obligations.FlagsChangeOnlyBySeedAndReset := by
  intro s t h
  obtain ⟨lcgSet, lcgCleared⟩ := step_flag (flag := State.lcgValid) (fun _ _ _ => exec_lcgValid)
    (fun s rest => writeHost_lcgValid rest s) takeResponse_lcgValid applyReset_lcgValid h
  obtain ⟨mtSet, mtCleared⟩ := step_flag (flag := State.mtValid) (fun _ _ _ => exec_mtValid)
    (fun s rest => writeHost_mtValid rest s) takeResponse_mtValid applyReset_mtValid h
  exact ⟨lcgSet, mtSet, lcgCleared, mtCleared⟩

/-! ## Each engine after its seed command -/

/-- After `LCG.SEED v` the engine is seeded with `v` and acknowledges it (R31, R80). -/
theorem exec_lcgSeed_fields {v : Word} {s t : State} (h : exec (.lcgSeed v) s = .next t) :
    t.seed = v ∧ t.lcgValid = true ∧ t.rsp = drawn 0 := by
  cases h
  exact ⟨rfl, rfl, rfl⟩

/-- The MT engine after `MT.SEED v`, and the response, are the same whatever the array held before (R31, R104). -/
theorem exec_mtSeed_mtView {v : Word} {s s' t t' : State} (h : exec (.mtSeed v) s = .next t)
    (h' : exec (.mtSeed v) s' = .next t') : mtView t = mtView t' ∧ t.rsp = t'.rsp := by
  cases h
  cases h'
  exact ⟨by simp [mtView, mtSeedArray_forgets s.state s'.state], rfl⟩

/-- Settles O19: each seed command overwrites every part of its engine. -/
theorem seededEngineIsAFunctionOfTheOperand : Obligations.SeededEngineIsAFunctionOfTheOperand := by
  intro v s s'
  constructor
  · exact ⟨_, _, rfl, rfl, rfl, rfl, rfl, rfl⟩
  · refine ⟨_, _, rfl, rfl, ?_⟩
    obtain ⟨hview, hrsp⟩ := exec_mtSeed_mtView (v := v) (s := s) (s' := s') rfl rfl
    obtain ⟨hstate, hcursor, hvalid, hdraws, htwists⟩ := mtView_eq_iff.mp hview
    exact ⟨hstate, hcursor, hvalid, hdraws, htwists, hrsp⟩

/-! ## The LCG sequence -/

/-- `n` draws on a seeded LCG engine answer the successive steps of its `seed` (R81). -/
theorem runCommands_lcgNext_replicate (n : Nat) {s : State} (h : s.lcgValid = true) :
    ∃ u, runCommands (List.replicate n .lcgNext) s =
      some (u, (List.range n).map fun k => drawn (lcgStep^[k + 1] s.seed)) := by
  induction n generalizing s with
  | zero => exact ⟨s, rfl⟩
  | succ n ih =>
    obtain ⟨u, hu⟩ := ih (s := respond false (lcgStep s.seed) (countLcgDraw (writeSeed (lcgStep s.seed) s))) h
    refine ⟨u, runCommands_cons_eq_some.mpr ⟨_, _, exec_lcgNext_seeded h, hu, ?_⟩⟩
    rw [List.range_succ_eq_map, List.map_cons, List.map_map]
    rfl

/-- The closed form of one step or more, as a number (R88). -/
theorem lcgStep_iterate_toNat (v : Word) (n : Nat) :
    (lcgStep^[n + 1] v).toNat = 65539 ^ (n + 1) * v.toNat % 2147483648 := by
  induction n with
  | zero => simp [lcgStep_toNat]
  | succ n ih =>
    rw [Function.iterate_succ_apply', lcgStep_toNat, ih, Nat.mul_mod_mod, ← mul_assoc, ← pow_succ']

/-- Without an `LCG.SEED`, the LCG commands of a list are all draws. -/
theorem filter_isLcg_eq_replicate {is : List Instr} (h : is.all (fun i => !i.isLcgSeed) = true) :
    is.filter Instr.isLcg = List.replicate (is.filter Instr.isLcg).length .lcgNext := by
  refine List.eq_replicate_of_mem fun i hi => ?_
  obtain ⟨hmem, hlcg⟩ := List.mem_filter.mp hi
  have hseed := List.all_eq_true.mp h i hmem
  cases i with
  | lcgSeed v => cases hseed
  | lcgNext => rfl
  | mtSeed v => cases hlcg
  | mtNext => cases hlcg

/-- The word of draw `n + 1` after `LCG.SEED v`, from the closed form (R88). -/
theorem lcgStep_iterate (v : Word) (n : Nat) :
    lcgStep^[n + 1] v = BitVec.ofNat 32 (65539 ^ (n + 1) * v.toNat % 2147483648) := by
  rw [← lcgStep_iterate_toNat, BitVec.ofNat_toNat, BitVec.setWidth_eq]

/-- Settles O32: the MT commands can be dropped from the run (O21), which leaves the seeding and draws only. -/
theorem lcgClosedForm : Obligations.LcgClosedForm := by
  intro s u v is rs hall hrun
  obtain ⟨⟨t, ht, -⟩, -⟩ := enginesAreIndependent _ _ _ _ hrun
  rw [List.filter_cons_of_pos rfl, filter_isLcg_eq_replicate hall] at ht
  obtain ⟨s₁, rs₁, hseed, hdraws, hrs⟩ := runCommands_cons_eq_some.mp ht
  obtain ⟨hword, hvalid, hrsp⟩ := exec_lcgSeed_fields hseed
  obtain ⟨w, hw⟩ := runCommands_lcgNext_replicate (is.filter Instr.isLcg).length hvalid
  cases hw.symm.trans hdraws
  simp only [hrs, hrsp, hword, lcgStep_iterate]

/-! ## The MT sequence -/

/-- Two runs of the same MT commands from states with the same MT engine give the same responses (R30). -/
theorem runCommands_mt_responses_eq {is : List Instr} (hmt : is.filter (fun i => !i.isLcg) = is) {s s' u u' : State}
    {rs rs' : List (Option RspWord)} (hv : mtView s' = mtView s) (h : runCommands is s = some (u, rs))
    (h' : runCommands is s' = some (u', rs')) : rs' = rs := by
  have responses {w x : State} {ps : List (Option RspWord)} (hw : mtView w = mtView s)
      (hrun : runCommands is w = some (x, ps)) : ps = responsesTo (fun i => !i.isLcg) is rs := by
    obtain ⟨t, ht, -⟩ := runCommands_filter (sel := fun i => !i.isLcg)
      (fun i s s' t hi => exec_mt_of_mtView_eq i s s' t (by simpa using hi))
      (fun i s t hi => exec_lcg_keeps_mtView i s t (by simpa using hi)) is hw h
    rw [hmt, hrun] at ht
    cases ht
    rfl
  exact (responses hv h').trans (responses rfl h).symm

/-- Settles O50: the LCG commands can be dropped from both runs (O21); after `MT.SEED v` the two MT engines are the same,
and so are the responses of the draws. -/
theorem mtSequenceIsAFunctionOfTheSeed : Obligations.MtSequenceIsAFunctionOfTheSeed := by
  intro s s' u u' v n is js rs rs' his hjs hrun hrun'
  obtain ⟨-, t, ht, -⟩ := enginesAreIndependent _ _ _ _ hrun
  obtain ⟨-, t', ht', -⟩ := enginesAreIndependent _ _ _ _ hrun'
  rw [his] at ht
  rw [hjs] at ht'
  obtain ⟨s₁, rs₁, hseed, hdraws, hrs⟩ := runCommands_cons_eq_some.mp ht
  obtain ⟨s₁', rs₁', hseed', hdraws', hrs'⟩ := runCommands_cons_eq_some.mp ht'
  obtain ⟨hview, hrsp⟩ := exec_mtSeed_mtView hseed hseed'
  have hmt : (List.replicate n Instr.mtNext).filter (fun i => !i.isLcg) = List.replicate n Instr.mtNext := by
    simp [Instr.isLcg]
  rw [hrs, hrs', hrsp, runCommands_mt_responses_eq hmt hview hdraws' hdraws]

end Sys2Proof.Machine
end

section
/-! PROOFS. The statements of the memory family (20_memory.md): a step as one whole command (R45, R72), the idempotent seed
commands (R46), and the order of commands and responses for a host that takes them (R49, R55, R64, R70, R183). -/

namespace Sys2Proof.Machine

/-! ## One command, one step -/

/-- Settles O6: the ready core accepts the command on offer. -/
theorem stepRunsTheDecodedCommand : Obligations.StepRunsTheDecodedCommand :=
  fun s w rest hr hh => step_of_command (nextHostEvent_ready s (.command w) rest hr hh)

/-- Settles O20: of what the first seeding left, the second reads nothing but the MT array, which the seeding loop
overwrites. -/
theorem seedingTwiceIsSeedingOnce : Obligations.SeedingTwiceIsSeedingOnce := by
  intro v s
  constructor
  · exact ⟨_, rfl, rfl⟩
  · refine ⟨_, rfl, congrArg Host.Outcome.next ?_⟩
    have harray : mtSeedArray (mtSeedArray s.state v) v = mtSeedArray s.state v := mtSeedArray_forgets _ _ v
    apply State.ext <;> simp [harray]

/-! ## A command and the taking of its response -/

/-- Every command completes, with a response (R64, R155). -/
theorem exec_answers (i : Instr) (s : State) : ∃ t r, exec i s = .next t ∧ t.rsp = some r := by
  have completes : ∃ t, exec i s = .next t := by
    rcases exec_cases i s with ⟨_, _, h⟩ | ⟨_, _, h⟩ | ⟨_, _, h⟩ | ⟨_, _, _, h⟩ | ⟨_, _, _, h⟩ | ⟨_, _, h⟩ |
      ⟨_, _, h⟩ <;> exact ⟨_, h⟩
  obtain ⟨t, ht⟩ := completes
  obtain ⟨_, _, _, r, hr⟩ := exec_channels ht
  exact ⟨t, r, ht, hr⟩

/-- The host takes the response that waits; the commands it offers before are still on offer (R72, log entry 7). -/
theorem step_of_waiting_take {s : State} {r : RspWord} {ws : List CmdWord} {rest : List HostEvent} (hr : s.rsp = some r)
    (hh : s.host = ws.map .command ++ .takeResponse :: rest) :
    step s = .next { s with rsp := none, received := s.received ++ [r], host := ws.map .command ++ rest } := by
  have hevent : nextHostEvent s = some (.takeResponse, ws.map .command ++ rest) := by
    rw [nextHostEvent_waiting s r hr, hh, firstNonCommand_commands_append]
    rfl
  exact (step_of_takeResponse hevent).trans (congrArg Host.Outcome.next (takeResponse_of_some (writeHost _ s) r hr))

/-- A run's first step. -/
theorem run_succ_of_step {s t : State} (n : Nat) (h : step s = .next t) :
    Host.Core.run core (n + 1) s = Host.Core.run core n t := by
  have hcore : core.step s = .next t := h
  simp only [Host.Core.run, hcore]

/-- A round: the ready core accepts a command, and the host takes the response (R49, R72). -/
theorem run_round {s t : State} {w : CmdWord} {ws : List CmdWord} {rest : List HostEvent} {r : RspWord} (n : Nat)
    (hs : s.rsp = none) (hh : s.host = .command w :: (ws.map .command ++ .takeResponse :: rest))
    (ht : exec (decode w) { s with host := ws.map .command ++ .takeResponse :: rest } = .next t) (hr : t.rsp = some r) :
    Host.Core.run core (n + 2) s =
      Host.Core.run core n { t with rsp := none, received := s.received ++ [r], host := ws.map .command ++ rest } := by
  obtain ⟨hhost, hreceived, -, -⟩ := exec_channels ht
  rw [run_succ_of_step (n + 1) ((stepRunsTheDecodedCommand s w _ hs hh).trans ht),
    run_succ_of_step n (step_of_waiting_take hr hhost), hreceived]

/-- Settles O13: the two steps are a round. -/
theorem acceptedCommandIsAnswered : Obligations.AcceptedCommandIsAnswered := by
  intro s w ws rest hs hh
  obtain ⟨t, r, ht, hr⟩ := exec_answers (decode w) { s with host := ws.map .command ++ .takeResponse :: rest }
  exact ⟨t, _, r, ht, hr, run_round 0 hs hh ht hr, rfl⟩

/-! ## A list of commands and the taking of their responses -/

/-- A run of commands does not read the channels: from a state that differs in them alone it gives the same responses and
does the same to the rest. -/
theorem runCommands_ignores_channels {is : List Instr} {s u : State} {rs : List (Option RspWord)} (h : List HostEvent)
    (rc : List RspWord) (rp : Option RspWord) (hrun : runCommands is s = some (u, rs)) :
    ∃ rp', runCommands is { s with host := h, received := rc, rsp := rp } =
      some ({ u with host := h, received := rc, rsp := rp' }, rs) := by
  induction is generalizing s rs rp with
  | nil =>
    cases hrun
    exact ⟨rp, rfl⟩
  | cons i is ih =>
    obtain ⟨t, rs', hi, his, rfl⟩ := runCommands_cons_eq_some.mp hrun
    obtain ⟨rp', hrest⟩ := ih t.rsp his
    exact ⟨rp', runCommands_cons_eq_some.mpr ⟨_, rs', exec_ignores_channels h rc rp hi, hrest, rfl⟩⟩

/-- A host, as a function of the command words it sends, that goes round by round: it offers the first word, takes a
response after at most further commands, and what is left is the host of the other words. -/
structure GoesInRounds (host : List CmdWord → List HostEvent) : Prop where
  nil : host [] = []
  cons (w : CmdWord) (ws : List CmdWord) : ∃ (vs : List CmdWord) (rest : List HostEvent),
    host (w :: ws) = .command w :: (vs.map .command ++ .takeResponse :: rest) ∧ host ws = vs.map .command ++ rest

/-- A host that goes in rounds receives the responses of its commands run one after another, two steps per command (R49,
R64). -/
theorem GoesInRounds.run {host : List CmdWord → List HostEvent} (hrounds : GoesInRounds host) {s u : State}
    {ws : List CmdWord} {rs : List RspWord} (hs : s.rsp = none) (hh : s.host = host ws)
    (hrun : runCommands (ws.map decode) s = some (u, rs.map some)) :
    Host.Core.run core (2 * ws.length) s = .next { u with rsp := none, received := s.received ++ rs, host := [] } := by
  induction ws generalizing s u rs with
  | nil =>
    obtain ⟨rfl, hrs⟩ : s = u ∧ [] = rs.map some := by simpa [runCommands] using hrun
    obtain rfl : rs = [] := List.map_eq_nil_iff.mp hrs.symm
    rw [hrounds.nil] at hh
    refine congrArg Host.Outcome.next ?_
    apply State.ext <;> simp [hs, hh]
  | cons w ws ih =>
    obtain ⟨vs, rest, hfirst, hothers⟩ := hrounds.cons w ws
    obtain ⟨t, rs', hi, his, hrs⟩ := runCommands_cons_eq_some.mp hrun
    obtain ⟨r, rs, rfl, hr, rfl⟩ := List.map_eq_cons_iff.mp hrs
    have hexec := exec_ignores_channels (vs.map .command ++ .takeResponse :: rest) s.received s.rsp hi
    obtain ⟨rp, hrest⟩ := runCommands_ignores_channels (vs.map .command ++ rest) (s.received ++ [r]) none his
    rw [List.length_cons, Nat.mul_succ, run_round _ hs (hh.trans hfirst) hexec hr.symm,
      ih rfl hothers.symm hrest, List.append_assoc, List.singleton_append]

/-- A host that offers all its commands before it takes goes in rounds, for its takings pass the commands (log entry 7). -/
theorem goesInRounds_offerAllThenTake :
    GoesInRounds fun ws => ws.map .command ++ List.replicate ws.length .takeResponse where
  nil := rfl
  cons _ ws := ⟨ws, List.replicate ws.length .takeResponse, rfl, rfl⟩

/-- A host that takes each response before it offers the next command goes in rounds. -/
theorem goesInRounds_takeEach : GoesInRounds fun ws => ws.flatMap fun w => [.command w, .takeResponse] where
  nil := rfl
  cons _ _ := ⟨[], _, rfl, rfl⟩

/-- Settles O14, by the rounds of the host that offers all its commands first. -/
theorem oneResponsePerCommandInOrder : Obligations.OneResponsePerCommandInOrder :=
  fun _ _ _ _ hs hh hrun => goesInRounds_offerAllThenTake.run hs hh hrun

/-- Decoding what an assembler encodes gives the command back (R62, R63). -/
@[simp] theorem decode_encode (i : Instr) : decode (encode i) = i := by
  cases i <;> simp [encode, decode]

/-- Settles O15, by the rounds of the host that takes each response as it comes, on the encoded commands. -/
theorem hostRunsItsCommandList : Obligations.HostRunsItsCommandList := by
  intro s u p rs hs hh hrun
  have hhost : hostOf p = (p.map encode).flatMap fun w => [.command w, .takeResponse] := by
    rw [hostOf, List.flatMap_map]
  have hdecode : (p.map encode).map decode = p := by simp [Function.comp_def]
  rw [← hdecode] at hrun
  simpa using goesInRounds_takeEach.run hs (hh.trans hhost) hrun

end Sys2Proof.Machine
end

section
/-! PROOFS. The statements of the encoding family (30_encoding.md): the command word and the response word (R60 to R67), a
response that waits (R72, R178), the response of every command (R65), and what a host does around the commands (R68 to
R70). -/

namespace Sys2Proof.Machine

/-! ## The command word -/

/-- A command word is its three fields (R61). -/
theorem cmdWord_ext {a b : CmdWord} (heng : engField a = engField b) (hop : opField a = opField b)
    (harg : argField a = argField b) : a = b := by
  refine BitVec.eq_of_getLsbD_eq fun k hk => ?_
  obtain h | rfl | rfl : k < 32 ∨ k = 32 ∨ k = 33 := by omega
  · simpa [argField, h] using congrArg (·.getLsbD k) harg
  · exact hop
  · exact heng

/-- The fields of a command word packed again give the word (R61). -/
theorem packCommand_fields (w : CmdWord) : packCommand (engField w) (opField w) (argField w) = w :=
  cmdWord_ext (by simp) (by simp) (by simp)

/-- Encoding the decoded word keeps its opcode bits, and clears the `arg` of a NEXT (R62). -/
theorem encode_decode (w : CmdWord) :
    encode (decode w) = packCommand (engField w) (opField w) (if opField w then 0 else argField w) := by
  rcases decode_cases w with ⟨he, ho, hd⟩ | ⟨he, ho, hd⟩ | ⟨he, ho, hd⟩ | ⟨he, ho, hd⟩ <;> simp [he, ho, hd, encode]

/-- A word is the encoding of what it decodes to exactly when it is a SEED or has `arg = 0` (R62). -/
theorem encode_decode_eq_iff (w : CmdWord) : encode (decode w) = w ↔ opField w = false ∨ argField w = 0#32 := by
  rw [encode_decode]
  constructor
  · intro h
    have harg := congrArg argField h
    cases ho : opField w with
    | false => exact .inl rfl
    | true => exact .inr (by simpa [ho] using harg.symm)
  · rintro (ho | harg)
    · simpa [ho] using packCommand_fields w
    · simpa [harg] using packCommand_fields w

/-- Settles O4: encoding has the decoder as its left inverse, hence is one to one, and what it loses of a word is the `arg` of
a NEXT. -/
theorem decodeAndEncodeAgree : Obligations.DecodeAndEncodeAgree :=
  ⟨decode_encode, encode_decode_eq_iff, fun _ _ h => Function.LeftInverse.injective decode_encode h⟩

/-- The four rows have the same mask, so the rows a word selects are those with its two opcode bits (R63). -/
theorem filter_opcodeTable (w : CmdWord) :
    opcodeTable.filter (fun r => r.selectedBy w) =
      opcodeTable.filter fun r => packCommand (engField w) (opField w) 0 == r.bits := by
  refine List.filter_congr fun r hr => ?_
  have hmask : ∀ r ∈ opcodeTable, r.mask = 0x300000000#34 := by decide
  rw [OpcodeRow.selectedBy, hmask r hr, mask_opcode]

/-- Settles O2: the two opcode bits select the row, and the decoder reads the same two bits. -/
theorem everyWordSelectsExactlyItsRow : Obligations.EveryWordSelectsExactlyItsRow := by
  intro w
  rw [filter_opcodeTable]
  rcases decode_cases w with ⟨he, ho, hd⟩ | ⟨he, ho, hd⟩ | ⟨he, ho, hd⟩ | ⟨he, ho, hd⟩ <;> rw [he, ho, hd] <;> rfl

/-- Settles O1, by the decoder on each word. -/
theorem specWordsDecode : Obligations.SpecWordsDecode :=
  ⟨rfl, rfl, rfl, rfl, rfl, rfl, rfl, rfl⟩

/-- Settles O3, by the fields of a packed word. -/
theorem operandTakenWholeAndIgnoredByNext : Obligations.OperandTakenWholeAndIgnoredByNext := by
  intro eng arg
  cases eng <;> simp [decode]

/-- A number that fits the 34 wires is read as that word (R60, R67). -/
theorem decodeTableWord_of_lt {w : Nat} (h : w < 2 ^ 34) : decodeTableWord 34 w = some (decode (BitVec.ofNat 34 w)) := by
  have hw : w < 17179869184 := h
  simp [decodeTableWord, decodeNumber, Nat.mod_eq_of_lt hw, hw]

/-- Settles O7: the placed word is on offer to a ready core, which accepts it (O6). -/
theorem fetchWordIsWhatRunsNext : Obligations.FetchWordIsWhatRunsNext := by
  intro s w hw
  refine ⟨decodeTableWord_of_lt hw, ?_⟩
  have hstep := stepRunsTheDecodedCommand (s.withFetchWord 34 w) _ s.host rfl rfl
  rwa [Nat.mod_eq_of_lt hw] at hstep

/-! ## The response word -/

/-- Bits 31 to 0 of a response word are its data (R64). -/
theorem getLsbD_rspData (r : RspWord) {k : Nat} (hk : k < 32) : (rspData r).getLsbD k = r.getLsbD k := by
  simp [rspData, hk]

/-- A response word is its two fields (R64). -/
theorem rspWord_ext {a b : RspWord} (herr : rspErr a = rspErr b) (hdata : rspData a = rspData b) : a = b := by
  refine BitVec.eq_of_getLsbD_eq fun k hk => ?_
  obtain h | rfl : k < 32 ∨ k = 32 := by omega
  · rw [← getLsbD_rspData a h, hdata, getLsbD_rspData b h]
  · exact herr

/-- Settles O5, by the two fields of a packed response and of the response packed again. -/
theorem responseWordIsErrAndData : Obligations.ResponseWordIsErrAndData := by
  refine ⟨fun err data => ⟨rspErr_packResponse err data, fun k hk => ?_⟩, fun r => rspWord_ext (by simp) (by simp)⟩
  rw [← getLsbD_rspData _ hk, rspData_packResponse]

/-! ## A response that waits -/

/-- While a response waits and the host only offers commands, no event can happen (R72, R178). -/
theorem nextHostEvent_only_commands {s : State} {r : RspWord} {ws : List CmdWord} (hr : s.rsp = some r)
    (hh : s.host = ws.map .command) : nextHostEvent s = none := by
  rw [nextHostEvent_waiting s r hr, hh, ← List.append_nil (ws.map _), firstNonCommand_commands_append]
  rfl

/-- Settles O8: with commands alone on offer nothing can happen, and the host's taking passes them. -/
theorem commandsWaitWhileAResponseIsPending : Obligations.CommandsWaitWhileAResponseIsPending :=
  fun _ _ _ hr => ⟨fun hh => step_of_idle (nextHostEvent_only_commands hr hh), fun _ hh => step_of_waiting_take hr hh⟩

/-! ## The response of every command -/

/-- A draw of a seeded LCG engine answers with the new `seed` (R65, R81). -/
theorem exec_lcgNext_drawn {s : State} (h : s.lcgValid = true) :
    ∃ t, exec .lcgNext s = .next t ∧ t.rsp = drawn t.seed ∧ t.seed = lcgStep s.seed :=
  ⟨_, exec_lcgNext_seeded h, rfl, rfl⟩

/-- A draw of a seeded MT engine answers with the tempered word the cursor named, in the array after any pass (R65,
R135). -/
theorem exec_mtNext_drawn {s : State} (h : s.mtValid = true) :
    ∃ t, exec .mtNext s = .next t ∧ t.rsp = drawn (temper (memRead t.state s.cursor)) := by
  refine ⟨_, exec_mtNext_seeded h, ?_⟩
  by_cases hc : s.cursor = 0 <;> simp [hc, drawn]

/-- Bit 31 of a step's value is clear (R85). -/
theorem lcgStep_getElem_31 (x : Word) : (lcgStep x)[31] = false :=
  Nat.testBit_lt_two_pow (lcgStep_lt x)

/-- Settles O16, by the command and the flag of its engine. -/
theorem responseValuesPerCommand : Obligations.ResponseValuesPerCommand := by
  intro i s
  cases i with
  | lcgSeed v => exact ⟨_, _, rfl, rfl, by simp⟩
  | mtSeed v => exact ⟨_, _, rfl, rfl, by simp⟩
  | lcgNext =>
    cases hv : s.lcgValid with
    | true =>
      obtain ⟨t, ht, hr, hseed⟩ := exec_lcgNext_drawn hv
      exact ⟨t, _, ht, hr, by simp [hseed, lcgStep_getElem_31]⟩
    | false => exact ⟨_, _, exec_lcgNext_unseeded hv, rfl, by simp⟩
  | mtNext =>
    cases hv : s.mtValid with
    | true =>
      obtain ⟨t, ht, hr⟩ := exec_mtNext_drawn hv
      exact ⟨t, _, ht, hr, by simp⟩
    | false => exact ⟨_, _, exec_mtNext_unseeded hv, rfl, by simp⟩

/-! ## The host's seeds -/

/-- A multiple of `2^32` is lost in the reduction (R68). -/
theorem reduceSeed_add_mul (s k : Int) : reduceSeed (s + k * 4294967296) = reduceSeed s := by
  have hzero : BitVec.ofInt 32 4294967296 = 0 := rfl
  rw [reduceSeed, BitVec.ofInt_add, BitVec.ofInt_mul, hzero, mul_zero, add_zero, reduceSeed]

/-- A 32-bit number is its own reduction (R68). -/
theorem reduceSeed_toNat (v : Word) : reduceSeed (v.toNat : Int) = v := by
  rw [reduceSeed, BitVec.ofInt_natCast, BitVec.ofNat_toNat, BitVec.setWidth_eq]

/-- A negative number is reduced by its two's complement (R103). -/
theorem reduceSeed_neg (s : Int) : reduceSeed (-s) = -reduceSeed s := BitVec.ofInt_neg

/-- Settles O52: both pseudo-operations send the reduction of the host's integer. -/
theorem hostSeedReductionIsModulo : Obligations.HostSeedReductionIsModulo := by
  refine ⟨fun now s k => ?_, fun now v => ?_, fun now v => ?_⟩
  · simp only [newMt, newLcg, reduceSeed_add_mul, and_self]
  · simp only [newMt, newLcg, reduceSeed_toNat, and_self]
  · simp only [newMt, reduceSeed_neg, reduceSeed_toNat]

/-! ## The host's draw of an index -/

/-- Settles O53, by division with remainder. -/
theorem drawnIndexLiesBelowTheLength : Obligations.DrawnIndexLiesBelowTheLength := by
  intro data len
  obtain rfl | hlen := eq_or_ne len 0
  · simp
  · rw [drawIndex_pos data hlen]
    refine ⟨by simp [hlen], ?_⟩
    rintro i ⟨⟩
    exact ⟨Nat.mod_lt _ (Nat.pos_of_ne_zero hlen), data.toNat / len, (Nat.div_add_mod' data.toNat len).symm⟩

/-- `DRAW.INDEX` from what its draw leaves and answers (R69). -/
theorem execDrawIndex_of_exec {eng : Engine} {s t : State} {r : RspWord} (len : Nat)
    (ht : exec (engineNext eng) s = .next t) (hr : t.rsp = some r) :
    execDrawIndex eng len s = .next (t, responseIndex r len) := by
  obtain ⟨t', r', ht', hr', h⟩ := execDrawIndex_cases eng len s
  cases ht.symm.trans ht'
  cases hr.symm.trans hr'
  exact h

/-- The index by the length (R69, U10). -/
theorem drawIndex_eq_ite (data : Word) (len : Nat) :
    drawIndex data len = if len ≠ 0 then some (data.toNat % len) else none := by
  rw [drawIndex, ite_not]

/-- Settles O55, by the response of the draw: a number, which the host reduces, or an error, from which it has no index. -/
theorem drawIndexRunsTheDrawAndReducesItsData : Obligations.DrawIndexRunsTheDrawAndReducesItsData := by
  intro len s
  constructor
  · cases hv : s.lcgValid with
    | true =>
      obtain ⟨t, ht, hr, -⟩ := exec_lcgNext_drawn hv
      refine ⟨t, ht, (execDrawIndex_of_exec (eng := .lcg) len ht hr).trans ?_⟩
      simp [drawIndex_eq_ite]
    | false => exact ⟨_, exec_lcgNext_unseeded hv, execDrawIndex_of_exec (eng := .lcg) len (exec_lcgNext_unseeded hv) rfl⟩
  · cases hv : s.mtValid with
    | true =>
      obtain ⟨t, ht, hr⟩ := exec_mtNext_drawn hv
      refine ⟨t, ht, (execDrawIndex_of_exec (eng := .mt) len ht hr).trans ?_⟩
      simp [drawIndex_eq_ite]
    | false => exact ⟨_, exec_mtNext_unseeded hv, execDrawIndex_of_exec (eng := .mt) len (exec_mtNext_unseeded hv) rfl⟩

/-! ## The assembler's immediates -/

/-- A string of digits is read one digit at a time, each below the base. -/
theorem readDigits_cons_eq_some {base : Nat} {c : Char} {cs : List Char} {n m : Nat} :
    readDigits base (c :: cs) n = some m ↔
      ∃ d, digitValue c = some d ∧ d < base ∧ readDigits base cs (n * base + d) = some m := by
  cases h : digitValue c <;> simp [readDigits, h]

/-- Digits read after the number `n` give a number below `(n + 1) * base ^ length`. -/
theorem readDigits_lt {base : Nat} {cs : List Char} {n m : Nat} (h : readDigits base cs n = some m) :
    m < (n + 1) * base ^ cs.length := by
  induction cs generalizing n with
  | nil =>
    cases h
    simp
  | cons c cs ih =>
    obtain ⟨d, -, hd, hcs⟩ := readDigits_cons_eq_some.mp h
    calc m < (n * base + d + 1) * base ^ cs.length := ih hcs
      _ ≤ ((n + 1) * base) * base ^ cs.length := Nat.mul_le_mul_right _ (by rw [Nat.add_one_mul]; omega)
      _ = (n + 1) * base ^ (c :: cs).length := by rw [List.length_cons, pow_succ', mul_assoc]

/-- The letter `x` is no digit, so a string that begins with `0x` is no decimal number (R70). -/
theorem readDigits_zeroX (base : Nat) (cs : List Char) (n : Nat) : readDigits base ('0' :: 'x' :: cs) n = none := by
  refine Option.eq_none_iff_forall_ne_some.mpr fun m h => ?_
  obtain ⟨_, _, _, hx⟩ := readDigits_cons_eq_some.mp h
  obtain ⟨d, hd, _⟩ := readDigits_cons_eq_some.mp hx
  exact absurd hd (by simp [digitValue])

/-- A decimal immediate is its number when that is in range (R70). -/
theorem readImm32_decimal {cs : List Char} {n : Nat} (hne : cs ≠ []) (h : readDigits 10 cs 0 = some n) :
    readImm32 cs = if immInRange n then some (toWord n) else none := by
  unfold readImm32
  split
  next => exact absurd rfl hne
  next ds => simp [readDigits_zeroX] at h
  next => simp only [h]

/-- Settles O54: eight hexadecimal digits denote less than `16 ^ 8 = 2 ^ 32`, and no decimal number begins with `0x`. -/
theorem assemblerImmediatesAreNeverTruncated : Obligations.AssemblerImmediatesAreNeverTruncated := by
  constructor
  · intro ds n hpos hle h
    have hlt : n < 4294967296 :=
      calc n < (0 + 1) * 16 ^ ds.length := readDigits_lt h
        _ ≤ (0 + 1) * 16 ^ 8 := Nat.mul_le_mul_left _ (Nat.pow_le_pow_right (by decide) hle)
    exact ⟨hlt, by simp [readImm32, hpos, hle, h, toWord]⟩
  · intro ds n hne h
    simp [readImm32_decimal hne h, immInRange, toWord]

end Sys2Proof.Machine
end

section
/-! PROOFS. The statements of the LCG family (40_lcg.md): the two commands (R80, R81), the step's datapaths and range (R82,
R83, R85, R90), the sequence as a function of the seed (R86, R87, R89, R90), and draws that never fail (R91). -/

namespace Sys2Proof.Machine

/-! ## The two commands -/

/-- Settles O26: the decoder on the two opcode bits, and the seed command's updates. -/
theorem lcgSeedStoresTheOperand : Obligations.LcgSeedStoresTheOperand :=
  ⟨fun _ he ho => by simp [decode, he, ho], fun _ _ => rfl⟩

/-- Settles O27, by the draw on a seeded engine, with the step's value as a number, and on an unseeded one. -/
theorem lcgNextMultipliesModulo : Obligations.LcgNextMultipliesModulo :=
  ⟨fun _ he ho => by simp [decode, he, ho], fun s =>
    ⟨fun hv => ⟨lcgStep s.seed, lcgStep_toNat s.seed, exec_lcgNext_seeded hv⟩, exec_lcgNext_unseeded⟩⟩

/-! ## The step's datapaths -/

/-- A word is the value of the step when it is the reduced product as a number (R81). -/
theorem lcgStep_eq_iff {x y : Word} : lcgStep x = y ↔ 65539 * x.toNat % 2147483648 = y.toNat := by
  rw [← BitVec.toNat_inj, lcgStep_toNat]

/-- The step by an exact 49-bit product cut to its low 31 bits (R82, R83). -/
theorem lcgStep_eq_extractLsb (x : Word) :
    lcgStep x = ((65539#49 * x.setWidth 49).extractLsb' 0 31).setWidth 32 := by
  have hfits : (65539#49 * x.setWidth 49).toNat = 65539 * x.toNat := by
    simp only [BitVec.toNat_mul, BitVec.toNat_setWidth, BitVec.toNat_ofNat, Nat.reducePow, Nat.reduceMod]
    omega
  rw [lcgStep_eq_iff, BitVec.toNat_setWidth, BitVec.extractLsb'_toNat, hfits, Nat.shiftRight_zero]
  omega

/-- The step by a 31-bit multiplier that drops the carry out (R83). -/
theorem lcgStep_eq_truncating (x : Word) : lcgStep x = (65539#31 * x.setWidth 31).setWidth 32 := by
  rw [lcgStep_eq_iff]
  simp only [BitVec.toNat_setWidth, BitVec.toNat_mul, BitVec.toNat_ofNat, Nat.reducePow, Nat.reduceMod, Nat.mul_mod_mod]
  omega

/-- The step by shifts and adds: the multiplier is `2^16 + 2 + 1` (R90). -/
theorem lcgStep_toNat_shiftAdd (x : Word) :
    (lcgStep x).toNat = (x.toNat * 65536 + x.toNat * 2 + x.toNat) % 2147483648 := by
  have h : 65539 * x.toNat = x.toNat * 65536 + x.toNat * 2 + x.toNat := by omega
  rw [lcgStep_toNat, h]

/-- Settles O28: the bounds are those of a 32-bit and of a 31-bit seed, and each datapath has its lemma. -/
theorem lcgDatapathsAgree : Obligations.LcgDatapathsAgree := fun x =>
  ⟨by omega, by omega, lcgStep_eq_extractLsb x, lcgStep_eq_truncating x, lcgStep_toNat_shiftAdd x⟩

/-! ## The step as a map of the words below `2^31` -/

/-- The multiplier is odd, hence prime to the modulus (R89). -/
theorem coprime_two_pow_lcgMul (n : Nat) : Nat.Coprime (2 ^ n) 65539 :=
  Nat.Coprime.pow_left n (by decide)

/-- The step forgets bit 31 of the seed and nothing else: the odd multiplier cancels modulo `2^31` (R87, R89). -/
theorem lcgStep_eq_lcgStep_iff {v w : Word} :
    lcgStep v = lcgStep w ↔ v.toNat % 2147483648 = w.toNat % 2147483648 := by
  rw [lcgStep_eq_iff, lcgStep_toNat]
  exact ⟨Nat.ModEq.cancel_left_of_coprime (coprime_two_pow_lcgMul 31), Nat.ModEq.mul_left 65539⟩

/-- Settles O31: the first outputs show the low 31 bits, and they fix the first outputs and all that follow. -/
theorem lcgSequenceDeterminedByLow31Bits : Obligations.LcgSequenceDeterminedByLow31Bits := by
  intro v w
  rw [← lcgStep_eq_lcgStep_iff]
  constructor
  · intro h
    exact h 1 le_rfl
  · intro h k hk
    obtain ⟨n, rfl⟩ := Nat.exists_eq_add_of_le' hk
    exact congrArg lcgStep^[n] h

/-- Settles O33: `x` is fixed when `2^31` divides `65538 * x`, that is when `2^30` divides `x`. -/
theorem lcgFixedPoints : Obligations.LcgFixedPoints := by
  intro x hx
  rw [lcgStep_eq_iff, ← BitVec.toNat_inj, ← BitVec.toNat_inj]
  simp only [BitVec.toNat_ofNat]
  omega

/-- Settles O34: a power of two up to the modulus divides the reduced product when it divides the product, and it is prime to
the multiplier. -/
theorem lcgPreservesTrailingZeros : Obligations.LcgPreservesTrailingZeros := by
  intro x n hn
  have hdvd : 2 ^ n ∣ 2147483648 := Nat.pow_dvd_pow 2 hn
  rw [lcgStep_toNat, Nat.dvd_mod_iff hdvd, Nat.dvd_mod_iff hdvd, (coprime_two_pow_lcgMul n).dvd_mul_left]

/-- The step undone on a word below `2^31`: `477211307` is the inverse of the multiplier modulo `2^31` (R89). -/
def lcgUnstep (y : Word) : Word := toWord (477211307 * y.toNat % 2147483648)

theorem lcgUnstep_toNat (y : Word) : (lcgUnstep y).toNat = 477211307 * y.toNat % 2147483648 := by
  simp only [lcgUnstep, toWord, BitVec.toNat_ofNat]
  omega

theorem lcgStep_lcgUnstep {y : Word} (hy : y.toNat < 2147483648) : lcgStep (lcgUnstep y) = y := by
  rw [lcgStep_eq_iff, lcgUnstep_toNat]
  omega

/-- Settles O35: the inverse gives a preimage, and two preimages below `2^31` have the same low 31 bits. -/
theorem lcgStepIsABijection : Obligations.LcgStepIsABijection := by
  intro y hy
  have hlt : (lcgUnstep y).toNat < 2147483648 := by
    rw [lcgUnstep_toNat]
    exact Nat.mod_lt _ (by decide)
  refine ⟨lcgUnstep y, ⟨hlt, lcgStep_lcgUnstep hy⟩, ?_⟩
  rintro x ⟨hx, hstep⟩
  have hlow := lcgStep_eq_lcgStep_iff.mp (hstep.trans (lcgStep_lcgUnstep hy).symm)
  rw [Nat.mod_eq_of_lt hx, Nat.mod_eq_of_lt hlt] at hlow
  exact BitVec.eq_of_toNat_eq hlow

/-- Settles O36: with `c = 2^16 + 3`, `c^2 - 6 * c + 9 = (c - 3)^2 = 2^32`, a multiple of the modulus. -/
theorem lcgThreeTermRelation : Obligations.LcgThreeTermRelation := by
  intro x
  rw [lcgStep_toNat (lcgStep x), lcgStep_toNat x]
  omega

/-! ## The seed in a run of commands -/

/-- A command other than `LCG.SEED` leaves `seed` alone or takes it one step (R21, R81). -/
theorem exec_seed {i : Instr} {s t : State} (hi : i.isLcgSeed = false) (h : exec i s = .next t) :
    t.seed = s.seed ∨ t.seed = lcgStep s.seed := by
  rcases exec_cases i s with ⟨v, rfl, -⟩ | ⟨-, -, h'⟩ | ⟨v, -, h'⟩ | ⟨-, -, -, h'⟩ | ⟨-, -, -, h'⟩ | ⟨-, -, h'⟩ |
    ⟨-, -, h'⟩
  · cases hi
  all_goals
    cases h.symm.trans h'
    simp

/-- Settles O29: the step's range, and the two things a command other than `LCG.SEED` can do to `seed`. -/
theorem lcgOutputBelowTwoToThe31 : Obligations.LcgOutputBelowTwoToThe31 := by
  constructor
  · intro s hv
    obtain ⟨t, ht, hr, hseed⟩ := exec_lcgNext_drawn hv
    exact ⟨t, _, ht, hr, by simp [hseed, lcgStep_lt, lcgStep_getElem_31]⟩
  · intro i s t hi hs h
    rcases exec_seed hi h with hseed | hseed <;> rw [hseed]
    · exact hs
    · exact lcgStep_lt s.seed

/-- What every command of a list keeps, a run of the list keeps. -/
theorem runCommands_invariant {P : State → Prop} {is : List Instr}
    (keeps : ∀ i ∈ is, ∀ s t, P s → exec i s = .next t → P t)
    {s u : State} {rs : List (Option RspWord)} (hs : P s) (h : runCommands is s = some (u, rs)) : P u := by
  induction is generalizing s rs with
  | nil =>
    cases h
    exact hs
  | cons i is ih =>
    obtain ⟨t, rs', hi, his, -⟩ := runCommands_cons_eq_some.mp h
    exact ih (fun j hj => keeps j (List.mem_cons_of_mem i hj)) (keeps i List.mem_cons_self s t hs hi) his

/-- Settles O30: 0 is a fixed point, so every command but `LCG.SEED` keeps `seed = 0`; the closed form (O32) gives the
responses. -/
theorem lcgZeroSeedGivesZeroForever : Obligations.LcgZeroSeedGivesZeroForever := by
  intro s u is rs hall hrun
  constructor
  · obtain ⟨t, rs', hseed, his, -⟩ := runCommands_cons_eq_some.mp hrun
    obtain ⟨hzero, -, -⟩ := exec_lcgSeed_fields hseed
    refine runCommands_invariant (P := fun s => s.seed = 0) (fun i hi s t hs h => ?_) hzero his
    have hnot : i.isLcgSeed = false := by simpa using List.all_eq_true.mp hall i hi
    rcases exec_seed hnot h with h' | h' <;> rw [h', hs]
    rfl
  · intro r hr
    rw [lcgClosedForm s u 0 is rs hall hrun] at hr
    rcases List.mem_cons.mp hr with rfl | hdraw
    · rfl
    · obtain ⟨k, -, rfl⟩ := List.mem_map.mp hdraw
      simp [drawn, ← packResponse_ack]

/-! ## Seeded engines -/

/-- With both engines seeded, every command answers without an error (R91, R143, R155). -/
theorem exec_seeded_drawn (i : Instr) {s : State} (hl : s.lcgValid = true) (hm : s.mtValid = true) :
    ∃ t x, exec i s = .next t ∧ t.rsp = drawn x := by
  cases i with
  | lcgSeed v => exact ⟨_, 0, rfl, rfl⟩
  | lcgNext =>
    obtain ⟨t, ht, hr, -⟩ := exec_lcgNext_drawn hl
    exact ⟨t, _, ht, hr⟩
  | mtSeed v => exact ⟨_, 0, rfl, rfl⟩
  | mtNext =>
    obtain ⟨t, ht, hr⟩ := exec_mtNext_drawn hm
    exact ⟨t, _, ht, hr⟩

/-- Settles O51: no command clears a flag (R24), so both engines stay seeded along the list. -/
theorem seededEnginesNeverFail : Obligations.SeededEnginesNeverFail := by
  intro is
  induction is with
  | nil =>
    intro s _ _
    exact ⟨s, [], rfl, rfl, by simp⟩
  | cons i is ih =>
    intro s hl hm
    obtain ⟨t, x, ht, hr⟩ := exec_seeded_drawn i hl hm
    have hl' : t.lcgValid = true := (exec_lcgValid ht).elim (·.trans hl) And.right
    have hm' : t.mtValid = true := (exec_mtValid ht).elim (·.trans hm) And.right
    obtain ⟨u, rs, hrun, hlen, hok⟩ := ih t hl' hm'
    refine ⟨u, t.rsp :: rs, runCommands_cons_eq_some.mpr ⟨t, rs, ht, hrun, rfl⟩, by simp [hlen], ?_⟩
    exact List.forall_mem_cons.mpr ⟨⟨x, hr⟩, hok⟩

end Sys2Proof.Machine
end

section
/-! PROOFS. The statements of the MT seeding family (41_mt_seed.md): the seeded array by its first word and its recurrence
(R100), and no seed giving the zero array (R105). -/

namespace Sys2Proof.Machine

/-! ## The seeded array -/

/-- The seeding word as a number: product and sum exact, then reduced modulo `2^32` (R100). -/
theorem seedWord_toNat (p : Word) (i : Nat) :
    (seedWord p i).toNat = (1812433253 * (p ^^^ (p >>> 30)).toNat + i) % 4294967296 :=
  BitVec.toNat_ofNat _ 32

/-- The first word of the seeded array is the seed (R100). -/
theorem memRead_mtSeedArray_zero (a : MtArray) (v : Word) : memRead (mtSeedArray a v) 0 = v :=
  memRead_mtSeedArray a v 0

/-- Every later word of the seeded array is the seeding word of the one before it (R100, R102). -/
theorem memRead_mtSeedArray_succ (a : MtArray) (v : Word) {n : Nat} (hn : n + 1 < 624) :
    memRead (mtSeedArray a v) (idx (n + 1)) = seedWord (memRead (mtSeedArray a v) (idx n)) (n + 1) := by
  have hn' : n < 624 := by omega
  simp only [memRead_mtSeedArray, idx_val, Nat.mod_eq_of_lt hn, Nat.mod_eq_of_lt hn', seedSeq]

/-- `MT.SEED v` leaves the seeded array (R100). -/
theorem exec_mtSeed_state {v : Word} {s t : State} (h : exec (.mtSeed v) s = .next t) :
    t.state = mtSeedArray s.state v := by
  cases h
  rfl

/-- Settles O38: the decoder on the two opcode bits, the seed command's updates, and the seeded array word by word. -/
theorem mtSeedBuildsTheArray : Obligations.MtSeedBuildsTheArray := by
  refine ⟨fun w he ho => by simp [decode, he, ho], fun v s =>
    ⟨mtSeedArray s.state v, rfl, memRead_mtSeedArray_zero s.state v, fun i h1 hi => ?_⟩⟩
  obtain ⟨n, rfl⟩ : ∃ n, i = n + 1 := ⟨i - 1, by omega⟩
  have hword := memRead_mtSeedArray_succ s.state v (n := n) (by omega)
  exact (congrArg BitVec.toNat hword).trans (seedWord_toNat _ _)

/-- Settles O40: word 0 is the seed, and when the seed is 0 the addend of the recurrence makes word 1 equal to 1. -/
theorem seededArrayIsNeverAllZero : Obligations.SeededArrayIsNeverAllZero := by
  intro v s t h
  rw [exec_mtSeed_state h]
  by_cases hv : v = 0#32
  · refine ⟨idx (0 + 1), ?_⟩
    have hzero : memRead (mtSeedArray s.state v) (idx 0) = 0#32 := (memRead_mtSeedArray_zero s.state v).trans hv
    rw [memRead_mtSeedArray_succ s.state v (by decide), hzero]
    decide
  · exact ⟨0, by rwa [memRead_mtSeedArray_zero]⟩

end Sys2Proof.Machine
end

section
/-! PROOFS. The statements of the MT twist family (42_mt_twist.md): one twist step (R117, R120, R121), which reads of the
pass see old words and which see new ones (R118, R119), the incremental organisation (R124), and the count of passes
(R123). -/

namespace Sys2Proof.Machine

/-! ## One twist step -/

/-- The mask `UPPER` keeps bit 31 alone (R6). -/
theorem getLsbD_upperMask {k : Nat} (hk : k < 32) : Config.upperMask.getLsbD k = decide (k = 31) := by
  revert k
  decide

/-- The mask `LOWER` keeps bits 30 to 0 (R6). -/
theorem getLsbD_lowerMask {k : Nat} (hk : k < 32) : Config.lowerMask.getLsbD k = decide (k < 31) := by
  revert k
  decide

/-- Bit 31 of `y` is that of the current word (R117). -/
theorem getLsbD_twistY_31 (cur next : Word) : (twistY cur next).getLsbD 31 = cur.getLsbD 31 := by
  rw [twistY, BitVec.getLsbD_or, BitVec.getLsbD_and, BitVec.getLsbD_and, getLsbD_upperMask (by decide),
    getLsbD_lowerMask (by decide)]
  simp

/-- Bits 30 to 0 of `y` are those of the next word (R117). -/
theorem getLsbD_twistY_low (cur next : Word) {k : Nat} (hk : k < 31) :
    (twistY cur next).getLsbD k = next.getLsbD k := by
  rw [twistY, BitVec.getLsbD_or, BitVec.getLsbD_and, BitVec.getLsbD_and, getLsbD_upperMask (by omega),
    getLsbD_lowerMask (by omega)]
  simp [hk, hk.ne]

/-- The parity of `y` is that of the next word (R120). -/
theorem isOdd_twistY (cur next : Word) : isOdd (twistY cur next) = next.getLsbD 0 :=
  getLsbD_twistY_low cur next (by decide)

/-- Settles O41: the words a step leaves alone, and its own word with `y` bit by bit. -/
theorem twistStepWritesOneWord : Obligations.TwistStepWritesOneWord := by
  intro a i hi
  constructor
  · intro j hj
    refine memRead_twistStep_ne a fun h => hj ?_
    rw [← h, idx_val, Nat.mod_eq_of_lt hi]
  · exact ⟨twistY (memRead a (idx i)) (memRead a (idxNext i)), _, getLsbD_twistY_31 _ _,
      fun k hk => getLsbD_twistY_low _ _ hk, rfl, memRead_twistStep_same a i⟩

/-- The conditional XOR is a selection between two constants (R121). -/
theorem twistWord_eq_select (cur next ahead : Word) :
    twistWord cur next ahead = ahead ^^^ (twistY cur next >>> 1) ^^^
      (if isOdd (twistY cur next) then Config.twistConst else 0#32) := by
  cases h : isOdd (twistY cur next) <;> simp [twistWord, shr, h]

/-- Settles O42: bit 0 of `y` is bit 0 of the next word. -/
theorem twistSelectsByParityOfTheNextWord : Obligations.TwistSelectsByParityOfTheNextWord := by
  intro cur next ahead
  constructor
  · rw [isOdd_twistY, BitVec.getLsbD, Nat.testBit_zero, decide_eq_true_iff]
  · rw [twistWord_eq_select, isOdd_twistY]

/-! ## Old and new words -/

/-- While the pass has reached `n`, a word below `n` is new and every other word is old (R118, R119). -/
theorem memRead_partialPass (a : MtArray) {n k : Nat} (hn : n ≤ 624) (hk : k < 624) :
    memRead (forRange 0 n twistStep a) (idx k) =
      if k < n then memRead (twist a) (idx k) else memRead a (idx k) := by
  split
  next h =>
    rw [twist, forRange_split (Nat.zero_le n) hn, twistSteps_keep _ hn le_rfl hk (.inl h)]
  next h => exact twistSteps_keep a (Nat.zero_le n) hn hk (.inr (by omega))

/-- The word `j` of the array after the pass, from the three words step `j` reads (R117, R118). -/
theorem memRead_twist_eq_twistWord (a : MtArray) {j : Nat} (hj : j < 624) :
    memRead (twist a) (idx j) = twistWord (memRead a (idx j)) (memRead (forRange 0 j twistStep a) (idxNext j))
      (memRead (forRange 0 j twistStep a) (idxAhead j)) := by
  rw [memRead_twist a hj, memRead_twistStep_same, memRead_partialPass a hj.le hj, if_neg (lt_irrefl j)]

/-- The next word is old in every step but the last (R119). -/
theorem memRead_partialPass_next (a : MtArray) {i : Nat} (hi : i ≤ 622) :
    memRead (forRange 0 i twistStep a) (idxNext i) = memRead a (idx (i + 1)) :=
  (memRead_partialPass a (by omega) (by omega)).trans (if_neg (by omega))

/-- From step 227 on the word 397 ahead is the one 227 places back (R119). -/
theorem idxAhead_eq_back {i : Nat} (h : 227 ≤ i) : idxAhead i = idx (i - 227) := by
  ext
  simp only [idxAhead, Config.twistOffset, idx_val]
  omega

/-- The word 397 ahead is old in the steps 0 to 226 (R119). -/
theorem memRead_partialPass_ahead_old (a : MtArray) {i : Nat} (hi : i ≤ 226) :
    memRead (forRange 0 i twistStep a) (idxAhead i) = memRead a (idx (i + 397)) :=
  (memRead_partialPass a (k := i + 397) (by omega) (by omega)).trans (if_neg (by omega))

/-- The word 397 ahead is new from step 227 on (R119). -/
theorem memRead_partialPass_ahead_new (a : MtArray) {i : Nat} (h : 227 ≤ i) (hi : i < 624) :
    memRead (forRange 0 i twistStep a) (idxAhead i) = memRead (twist a) (idx (i - 227)) := by
  rw [idxAhead_eq_back h, memRead_partialPass a hi.le (by omega), if_pos (by omega)]

/-- Settles O43: each read of step `i` by whether its index lies below `i`. -/
theorem twistReadsOldAndNewWords : Obligations.TwistReadsOldAndNewWords := by
  intro a
  refine ⟨fun i hi => ?_, fun i h hi => ?_, ?_⟩
  · have hword := memRead_twist_eq_twistWord a (j := i) (by omega)
    rwa [memRead_partialPass_next a (by omega), memRead_partialPass_ahead_old a hi] at hword
  · have hword := memRead_twist_eq_twistWord a (j := i) (by omega)
    rwa [memRead_partialPass_next a hi, memRead_partialPass_ahead_new a h (by omega)] at hword
  · have hword := memRead_twist_eq_twistWord a (j := 623) (by decide)
    have hfirst : memRead (forRange 0 623 twistStep a) (idxNext 623) = memRead (twist a) (idx 0) :=
      memRead_partialPass a (n := 623) (k := 0) (by decide) (by decide)
    rwa [hfirst, memRead_partialPass_ahead_new a (by decide) (by decide)] at hword

/-! ## The incremental organisation -/

/-- The cursor counts the draws `mod 624` (R140). -/
theorem cursorNext_idx (k : Nat) : cursorNext (idx k) = idx (k + 1) :=
  Fin.ext (cursorNext_val_of_eq (idx_val k))

/-- The array after `k` steps one after another: the full passes, and the part of a pass the last steps make up. -/
def steppedArray (a : MtArray) (k : Nat) : MtArray := forRange 0 (k % 624) twistStep (twist^[k / 624] a)

/-- One more step continues the part of a pass; the step 623 makes it a full pass (R116). -/
theorem twistStep_steppedArray (a : MtArray) (k : Nat) :
    twistStep (steppedArray a k) (k % 624) = steppedArray a (k + 1) := by
  rw [steppedArray, ← forRange_succ (Nat.zero_le (k % 624)) twistStep]
  by_cases hlast : k % 624 = 623
  · have hmod : (k + 1) % 624 = 0 := by omega
    have hdiv : (k + 1) / 624 = k / 624 + 1 := by omega
    rw [steppedArray, hmod, hdiv, forRange_empty, Function.iterate_succ_apply', hlast]
    rfl
  · have hmod : (k + 1) % 624 = k % 624 + 1 := by omega
    have hdiv : (k + 1) / 624 = k / 624 := by omega
    rw [steppedArray, hmod, hdiv]

/-- After `k` draws the incremental organisation has made `k` steps (R124). -/
theorem incrementalDraw_iterate (a : MtArray) (k : Nat) :
    incrementalDraw^[k] (a, 0) = (steppedArray a k, idx k) := by
  induction k with
  | zero => simp [steppedArray, idx]
  | succ k ih =>
    rw [Function.iterate_succ_apply', ih, incrementalDraw, idx_val, twistStep_steppedArray, cursorNext_idx]

/-- A pass when `cursor = 0` brings the number of passes to that of the block the draw belongs to (R115, R123). -/
theorem twist_iterate_at_draw (a : MtArray) (k : Nat) :
    (if idx k = 0 then twist (twist^[(k + 623) / 624] a) else twist^[(k + 623) / 624] a) = twist^[k / 624 + 1] a := by
  have hzero : idx k = 0 ↔ k % 624 = 0 := Fin.ext_iff
  by_cases h : k % 624 = 0
  · have hpasses : (k + 623) / 624 = k / 624 := by omega
    rw [if_pos (hzero.mpr h), hpasses, Function.iterate_succ_apply']
  · have hpasses : (k + 623) / 624 = k / 624 + 1 := by omega
    rw [if_neg (mt hzero.mp h), hpasses]

/-- After `k` draws the batch organisation has made `ceil(k / 624)` passes (R123). -/
theorem batchDraw_iterate (a : MtArray) (k : Nat) :
    batchDraw^[k] (a, 0) = (twist^[(k + 623) / 624] a, idx k) := by
  induction k with
  | zero => rfl
  | succ k ih =>
    have hpasses : (k + 1 + 623) / 624 = k / 624 + 1 := by omega
    rw [Function.iterate_succ_apply', ih, batchDraw, twist_iterate_at_draw, cursorNext_idx, hpasses]

/-- Settles O44: both organisations temper the word step `k mod 624` writes in pass `k / 624 + 1`, and after `624 * k` draws
both have made `k` full passes. -/
theorem incrementalTwistGivesTheSameDraws : Obligations.IncrementalTwistGivesTheSameDraws := by
  intro a k
  constructor
  · have hidx : idx k = idx (k % 624) := (idx_of_val (idx k)).symm
    have hword : memRead (twistStep (steppedArray a k) (k % 624)) (idx k) =
        memRead (twist^[k / 624 + 1] a) (idx k) := by
      rw [Function.iterate_succ_apply', hidx, memRead_twist _ (Nat.mod_lt k (by decide)), steppedArray]
    rw [incrementalDraw_iterate, batchDraw_iterate, incrementalOutput, batchOutput, twist_iterate_at_draw, idx_val, hword]
  · have hmod : 624 * k % 624 = 0 := Nat.mul_mod_right 624 k
    have hdiv : 624 * k / 624 = k := Nat.mul_div_cancel_left k (by decide)
    have hpasses : (624 * k + 623) / 624 = k := by omega
    rw [incrementalDraw_iterate, batchDraw_iterate, steppedArray, hmod, hdiv, hpasses, forRange_empty]

/-! ## The count of passes -/

/-- The MT engine is seeded, and its cursor and its ghost counters are those of `n` draws (R123, R140). -/
structure AfterMtDraws (n : Nat) (s : State) : Prop where
  valid : s.mtValid = true
  cursor_eq : s.cursor.val = n % 624
  draws_eq : s.mtDraws = n
  twists_eq : s.mtTwists = (n + 623) / 624

/-- `MT.SEED` starts the counts, in every state (R100). -/
theorem exec_mtSeed_afterMtDraws {v : Word} {s t : State} (h : exec (.mtSeed v) s = .next t) : AfterMtDraws 0 t := by
  cases h
  exact ⟨rfl, rfl, rfl, rfl⟩

/-- A draw moves cursor and counts on by one, and it counts a pass when it starts a block of 624 draws (R115, R123). -/
theorem exec_mtNext_afterMtDraws {n : Nat} {s t : State} (hs : AfterMtDraws n s) (h : exec .mtNext s = .next t) :
    AfterMtDraws (n + 1) t := by
  obtain ⟨hvalid, hcursor, hdraws, htwists⟩ := hs
  have hblock : s.cursor = 0 ↔ n % 624 = 0 := by rw [← hcursor, Fin.ext_iff]; rfl
  have hnext := cursorNext_val_of_eq hcursor
  cases (exec_mtNext_seeded hvalid).symm.trans h
  by_cases hc : s.cursor = 0
  · rw [if_pos hc]
    exact ⟨hvalid, hnext, by simp [hdraws], by simp [passes_succ, htwists, hblock.mp hc]⟩
  · rw [if_neg hc]
    exact ⟨hvalid, hnext, by simp [hdraws], by simp [passes_succ, htwists, mt hblock.mpr hc]⟩

/-- `n` draws on a seeded MT engine are all answered without an error, and move cursor and counts on by `n` (R143). -/
theorem runCommands_mtNext_afterMtDraws (n : Nat) {m : Nat} {s : State} (hs : AfterMtDraws m s) :
    ∃ t rs, runCommands (List.replicate n .mtNext) s = some (t, rs) ∧ rs.length = n ∧
      (∀ r ∈ rs, ∃ x, r = drawn x) ∧ AfterMtDraws (m + n) t := by
  induction n generalizing m s with
  | zero => exact ⟨s, [], rfl, rfl, by simp, hs⟩
  | succ n ih =>
    obtain ⟨t, ht, hr⟩ := exec_mtNext_drawn hs.valid
    obtain ⟨u, rs, hrun, hlen, hok, hu⟩ := ih (exec_mtNext_afterMtDraws hs ht)
    refine ⟨u, t.rsp :: rs, runCommands_cons_eq_some.mpr ⟨t, rs, ht, hrun, rfl⟩, by simp [hlen],
      List.forall_mem_cons.mpr ⟨⟨_, hr⟩, hok⟩, ?_⟩
    rwa [Nat.add_right_comm] at hu

/-- Settles O48: the seed command starts the counts at 0, and each draw moves them on by one. -/
theorem cursorAndPassesAfterDraws : Obligations.CursorAndPassesAfterDraws := by
  intro s v n
  obtain ⟨t, ht, hack⟩ : ∃ t, exec (.mtSeed v) s = .next t ∧ t.rsp = drawn 0 := ⟨_, rfl, rfl⟩
  obtain ⟨u, rs, hrun, hlen, hok, hu⟩ := runCommands_mtNext_afterMtDraws n (exec_mtSeed_afterMtDraws ht)
  rw [Nat.zero_add] at hu
  exact ⟨u, t.rsp :: rs, runCommands_cons_eq_some.mpr ⟨t, rs, ht, hrun, rfl⟩, by simp [hlen],
    List.forall_mem_cons.mpr ⟨⟨0, hack⟩, hok⟩, hu.valid, hu.cursor_eq, hu.draws_eq, hu.twists_eq⟩

end Sys2Proof.Machine
end

section
/-! PROOFS. The statements of the MT extraction family (43_mt_extract.md): a draw as a whole (R135), the four stages of the
tempering transform as numbers (R136) and as a bijection (R138, R139), and the closed form of the sequence (R140, R144). -/

namespace Sys2Proof.Machine

/-! ## The draw -/

/-- Settles O45: the decoder on the two opcode bits, and the draw by its engine's flag and by the cursor. -/
theorem mtNextRegeneratesReadsTempersAdvances : Obligations.MtNextRegeneratesReadsTempersAdvances := by
  refine ⟨fun w he ho => by simp [decode, he, ho], fun s => ⟨fun hv hc => ?_, fun hv hc => ?_, exec_mtNext_unseeded⟩⟩
  · rw [exec_mtNext_seeded hv, if_neg hc]
    rfl
  · have hword : memRead (runTwist s).state (runTwist s).cursor = memRead (twist s.state) 0 :=
      congrArg (memRead (twist s.state)) hc
    have hnext : cursorNext (runTwist s).cursor = 1 := congrArg cursorNext hc
    rw [exec_mtNext_seeded hv, if_pos hc, extract, hword, hnext]
    rfl

/-! ## The four stages of tempering -/

/-- A tempering stage of the first kind: XOR with the word shifted to the right (R136). -/
def shrStage (k : Nat) (y : Word) : Word := y ^^^ shr y k

/-- A tempering stage of the second kind: XOR with the word shifted to the left and masked (R136). -/
def shlStage (k : Nat) (m y : Word) : Word := y ^^^ (shl y k &&& m)

/-- Tempering is its four stages in the order of R136. -/
theorem temper_eq_stages (y : Word) :
    temper y = shrStage Config.temperL (shlStage Config.temperT Config.temperC
      (shlStage Config.temperS Config.temperB (shrStage Config.temperU y))) := rfl

/-- A right shift is a division (R16). -/
theorem shrStage_toNat (k : Nat) (y : Word) : (shrStage k y).toNat = y.toNat ^^^ (y.toNat / 2 ^ k) := by
  rw [shrStage, shr, BitVec.toNat_xor, BitVec.toNat_ushiftRight, Nat.shiftRight_eq_div_pow]

/-- A left shift is a multiplication reduced modulo `2^32` (R16). -/
theorem shlStage_toNat (k : Nat) (m y : Word) :
    (shlStage k m y).toNat = y.toNat ^^^ ((y.toNat * 2 ^ k % 2 ^ 32) &&& m.toNat) := by
  rw [shlStage, shl, BitVec.toNat_xor, BitVec.toNat_and, BitVec.toNat_shiftLeft, Nat.shiftLeft_eq]

/-- Settles O46: the words between the stages, each stage as a number. -/
theorem temperingIsFourShiftXorStages : Obligations.TemperingIsFourShiftXorStages := fun y0 =>
  ⟨shrStage Config.temperU y0, _, _, shrStage_toNat _ y0, shlStage_toNat Config.temperS Config.temperB _,
    shlStage_toNat Config.temperT Config.temperC _, shrStage_toNat Config.temperL _⟩

/-! ## Tempering as a bijection -/

/-- XOR with a linear `f` of the word loses nothing when `f` fixes the zero word alone: the difference of two words with the
same image is fixed by `f`. -/
theorem xor_linear_injective {f : Word → Word} (linear : ∀ x y, f (x ^^^ y) = f x ^^^ f y)
    (fixed : ∀ d, f d = d → d = 0#32) : Function.Injective fun y => y ^^^ f y := by
  intro x y (h : x ^^^ f x = y ^^^ f y)
  have hdiff : f (x ^^^ y) = x ^^^ y :=
    calc f (x ^^^ y) = x ^^^ (x ^^^ f x) ^^^ f y := by rw [linear, ← BitVec.xor_assoc, BitVec.xor_self, BitVec.zero_xor]
      _ = x ^^^ y := by rw [h, BitVec.xor_assoc, BitVec.xor_assoc, BitVec.xor_self, BitVec.xor_zero]
  exact BitVec.xor_eq_zero_iff.mp (fixed _ hdiff)

/-- A right shift that moves bits fixes the zero word alone: it makes every other number smaller. -/
theorem eq_zero_of_shr_eq_self {k : Nat} (hk : k ≠ 0) {d : Word} (h : shr d k = d) : d = 0#32 := by
  have hdiv : d.toNat / 2 ^ k = d.toNat := by
    rw [← Nat.shiftRight_eq_div_pow, ← BitVec.toNat_ushiftRight]
    exact congrArg BitVec.toNat h
  by_contra hd
  have hpos : 0 < d.toNat := Nat.pos_of_ne_zero fun h0 => hd (BitVec.eq_of_toNat_eq h0)
  exact (Nat.div_lt_self hpos (Nat.one_lt_two_pow hk)).ne hdiv

/-- A masked left shift that moves bits fixes the zero word alone: each bit of the word is a lower one of it or clear. -/
theorem eq_zero_of_shl_and_eq_self {k : Nat} (hk : k ≠ 0) {m d : Word} (h : shl d k &&& m = d) : d = 0#32 := by
  have hclear (i : Nat) : d.getLsbD i = false := by
    induction i using Nat.strong_induction_on with
    | _ i ih =>
      rw [← h, shl, BitVec.getLsbD_and, BitVec.getLsbD_shiftLeft]
      by_cases hi : i < k
      · simp [hi]
      · simp [ih (i - k) (by omega)]
  exact BitVec.eq_of_getLsbD_eq fun i _ => (hclear i).trans BitVec.getLsbD_zero.symm

/-- A masked left shift is linear in its word. -/
theorem shl_and_xor (k : Nat) (m x y : Word) : shl (x ^^^ y) k &&& m = (shl x k &&& m) ^^^ (shl y k &&& m) := by
  rw [shl, BitVec.shiftLeft_xor_distrib]
  ext i hi
  simp only [BitVec.getElem_and, BitVec.getElem_xor, Bool.and_xor_distrib_right, shl]

/-- A stage of the first kind loses nothing (R139). -/
theorem shrStage_injective {k : Nat} (hk : k ≠ 0) : Function.Injective (shrStage k) :=
  xor_linear_injective (fun x y => BitVec.ushiftRight_xor_distrib x y k) fun _ => eq_zero_of_shr_eq_self hk

/-- A stage of the second kind loses nothing, whatever its mask (R139). -/
theorem shlStage_injective {k : Nat} (hk : k ≠ 0) (m : Word) : Function.Injective (shlStage k m) :=
  xor_linear_injective (shl_and_xor k m) fun _ => eq_zero_of_shl_and_eq_self hk

/-- Tempering loses nothing, for none of its stages does (R139). -/
theorem temper_injective : Function.Injective temper :=
  (shrStage_injective (by decide)).comp <| (shlStage_injective (by decide) Config.temperC).comp <|
    (shlStage_injective (by decide) Config.temperB).comp <| shrStage_injective (by decide)

/-- Settles O47: an injection of the finitely many words into themselves is a bijection. -/
theorem temperingIsABijection : Obligations.TemperingIsABijection :=
  ⟨Finite.injective_iff_bijective.mp temper_injective, by decide⟩

/-! ## The closed form of the sequence -/

/-- A draw on a seeded MT engine is a draw of the batch organisation: same array, cursor and word (R124, R135). -/
theorem exec_mtNext_batchDraw {s : State} (hv : s.mtValid = true) :
    ∃ t, exec .mtNext s = .next t ∧ t.mtValid = true ∧ (t.state, t.cursor) = batchDraw (s.state, s.cursor) ∧
      t.rsp = drawn (batchOutput (s.state, s.cursor)) := by
  refine ⟨_, exec_mtNext_seeded hv, ?_⟩
  by_cases hc : s.cursor = 0 <;> simp [hc, hv, batchDraw, batchOutput, drawn]

/-- `n` draws on a seeded MT engine answer the successive words of the batch organisation (R135). -/
theorem runCommands_mtNext_replicate (n : Nat) {s : State} (hv : s.mtValid = true) :
    ∃ u, runCommands (List.replicate n .mtNext) s =
      some (u, (List.range n).map fun k => drawn (batchOutput (batchDraw^[k] (s.state, s.cursor)))) := by
  induction n generalizing s with
  | zero => exact ⟨s, rfl⟩
  | succ n ih =>
    obtain ⟨t, ht, hvalid, hdraw, hrsp⟩ := exec_mtNext_batchDraw hv
    obtain ⟨u, hu⟩ := ih hvalid
    refine ⟨u, runCommands_cons_eq_some.mpr ⟨t, _, ht, hu, ?_⟩⟩
    rw [List.range_succ_eq_map, List.map_cons, List.map_map, hrsp, hdraw]
    rfl

/-- From `cursor = 0` the draw after `k` draws tempers word `k mod 624` of pass `k / 624 + 1` (R140, R144). -/
theorem batchOutput_batchDraw_iterate (a : MtArray) (k : Nat) :
    batchOutput (batchDraw^[k] (a, 0)) = temper (memRead (twist^[k / 624 + 1] a) (idx k)) := by
  rw [batchDraw_iterate, batchOutput, twist_iterate_at_draw]

/-- Settles O49: `MT.SEED` leaves `cursor = 0`, and the draws are those of the batch organisation. -/
theorem mtDrawIsTemperedWordOfItsPass : Obligations.MtDrawIsTemperedWordOfItsPass := by
  intro s t v n h
  have hs : AfterMtDraws 0 t := exec_mtSeed_afterMtDraws h
  have hcursor : t.cursor = 0 := Fin.ext hs.cursor_eq
  obtain ⟨u, hu⟩ := runCommands_mtNext_replicate n hs.valid
  simp only [hcursor, batchOutput_batchDraw_iterate] at hu
  exact ⟨u, hu⟩

end Sys2Proof.Machine
end

section
/-! PROOFS. The statements of the exceptions family (60_exceptions.md): no step stops the core (R155, R157, R180), an idle
core holds its state (R169, R183), a refused draw leaves no trace (R160), and a host that seeds first sees no error (R177,
R178). -/

namespace Sys2Proof.Machine

/-! ## Runs of any length -/

/-- What every step of a state answers and carries on, a run of any length answers and carries on. -/
theorem run_invariant {P : State → Prop} (next : ∀ s, P s → ∃ t, step s = .next t ∧ P t) (n : Nat) {s : State}
    (hs : P s) : ∃ t, Host.Core.run core n s = .next t ∧ P t := by
  induction n generalizing s with
  | zero => exact ⟨s, rfl, hs⟩
  | succ n ih =>
    obtain ⟨t, ht, hP⟩ := next s hs
    rw [run_succ_of_step n ht]
    exact ih hP

/-! ## No step stops the core -/

/-- Whatever the next event is, the step answers a next state (R155, R180). -/
theorem step_answers (s : State) : ∃ t, step s = .next t := by
  rcases step_cases s with ⟨-, h⟩ | ⟨w, rest, -, -, -, h⟩ | ⟨rest, -, h⟩ | ⟨rest, -, h⟩
  · exact ⟨_, h⟩
  · obtain ⟨t, -, ht, -⟩ := exec_answers (decode w) (writeHost rest s)
    exact ⟨t, h.trans ht⟩
  · exact ⟨_, h⟩
  · exact ⟨_, h⟩

/-- Settles O12: every command completes, and `step_answers` along a run. -/
theorem nothingStopsTheCore : Obligations.NothingStopsTheCore := by
  constructor
  · intro i s
    obtain ⟨t, -, ht, -⟩ := exec_answers i s
    exact ⟨t, ht⟩
  · intro n s
    have next (s : State) (_ : True) : ∃ t, step s = .next t ∧ True := (step_answers s).imp fun _ h => ⟨h, trivial⟩
    obtain ⟨t, ht, -⟩ := run_invariant next n (s := s) trivial
    exact ⟨t, ht⟩

/-! ## An idle core -/

/-- A host that does nothing makes nothing happen, whether a response waits or not (R169, R178). -/
theorem nextHostEvent_of_host_nil {s : State} (h : s.host = []) : nextHostEvent s = none := by
  cases hr : s.rsp with
  | none => simp [nextHostEvent, cmdReady, hr, h]
  | some r => rw [nextHostEvent_waiting s r hr, h, firstNonCommand]

/-- Settles O10: no event happens. -/
theorem idleCoreHoldsItsState : Obligations.IdleCoreHoldsItsState :=
  fun _ h => step_of_idle (nextHostEvent_of_host_nil h)

/-! ## Refused draws -/

/-- A command that leads to `u` and then leaves `u` as it is, repeated: each time it gets the response on offer in `u`. -/
theorem runCommands_replicate_of_fixed {i : Instr} {s u : State} (n : Nat) (first : exec i s = .next u)
    (again : exec i u = .next u) :
    runCommands (List.replicate (n + 1) i) s = some (u, List.replicate (n + 1) u.rsp) := by
  induction n generalizing s with
  | zero => exact runCommands_cons_eq_some.mpr ⟨u, [], first, rfl, rfl⟩
  | succ n ih => exact runCommands_cons_eq_some.mpr ⟨u, _, first, ih again, rfl⟩

/-- Settles O17: a refusal changes the response on offer and nothing else, so the flag is still 0 for the next draw, and a
seed command does not read that response. -/
theorem refusedDrawsLeaveNoTrace : Obligations.RefusedDrawsLeaveNoTrace := by
  intro s v n
  constructor
  · intro hv
    have first : exec .lcgNext s = .next (raiseUnseeded s) := exec_lcgNext_unseeded hv
    have again : exec .lcgNext (raiseUnseeded s) = .next (raiseUnseeded s) := exec_lcgNext_unseeded hv
    exact ⟨runCommands_replicate_of_fixed n first again, _, rfl, rfl, rfl⟩
  · intro hv
    have first : exec .mtNext s = .next (raiseUnseeded s) := exec_mtNext_unseeded hv
    have again : exec .mtNext (raiseUnseeded s) = .next (raiseUnseeded s) := exec_mtNext_unseeded hv
    exact ⟨runCommands_replicate_of_fixed n first again, _, rfl, rfl, rfl⟩

/-! ## A host that seeds before it draws -/

/-- Whether a command is in order, and what it seeds, does not depend on what the host does after it (R177). -/
theorem seedsFirst_command (l m : Bool) (w : CmdWord) :
    ∃ ok l' m', ∀ rest, seedsFirst l m (.command w :: rest) = (ok && seedsFirst l' m' rest) := by
  cases hd : decode w with
  | lcgSeed v => exact ⟨true, true, m, fun rest => by simp [seedsFirst, hd]⟩
  | lcgNext => exact ⟨l, l, m, fun rest => by simp [seedsFirst, hd]⟩
  | mtSeed v => exact ⟨true, l, true, fun rest => by simp [seedsFirst, hd]⟩
  | mtNext => exact ⟨m, l, m, fun rest => by simp [seedsFirst, hd]⟩

/-- The first thing such a host does besides offering commands is a taking, and without it the host still seeds first: the
commands that a taking passes stay in their order (log entry 7). -/
theorem seedsFirst_of_firstNonCommand {l m : Bool} {h rest : List HostEvent} {e : HostEvent}
    (hs : seedsFirst l m h = true) (hn : firstNonCommand h = some (e, rest)) :
    e = .takeResponse ∧ seedsFirst l m rest = true := by
  induction h generalizing l m rest with
  | nil => cases hn
  | cons first es ih =>
    cases first with
    | command w =>
      obtain ⟨⟨e', rest'⟩, hes, heq⟩ := Option.map_eq_some_iff.mp hn
      cases heq
      obtain ⟨ok, l', m', hcmd⟩ := seedsFirst_command l m w
      obtain ⟨hok, hs'⟩ : ok = true ∧ seedsFirst l' m' es = true := by simpa [hcmd] using hs
      obtain ⟨he, hrest⟩ := ih hs' hes
      exact ⟨he, by simp [hcmd, hok, hrest]⟩
    | takeResponse =>
      cases hn
      exact ⟨rfl, hs⟩
    | reset => cases hs

/-- An event that happens and is no command is the first such event of the host, with the core ready or not (R72). -/
theorem firstNonCommand_of_nextHostEvent {s : State} {e : HostEvent} {rest : List HostEvent}
    (hn : nextHostEvent s = some (e, rest)) (he : ∀ w, e ≠ .command w) : firstNonCommand s.host = some (e, rest) := by
  cases hr : s.rsp with
  | some r => rwa [nextHostEvent_waiting s r hr] at hn
  | none =>
    cases hh : s.host with
    | nil => cases (nextHostEvent_of_host_nil hh).symm.trans hn
    | cons first es =>
      cases (nextHostEvent_ready s first es hr hh).symm.trans hn
      cases e with
      | command w => exact absurd rfl (he w)
      | takeResponse => rfl
      | reset => rfl

/-- A command in order is answered without an error, and the host goes on seeding first under the flags it leaves (R156,
R177). -/
theorem exec_of_seedsFirst {s t : State} {w : CmdWord} {rest : List HostEvent}
    (h : seedsFirst s.lcgValid s.mtValid (.command w :: rest) = true) (ht : exec (decode w) s = .next t) :
    seedsFirst t.lcgValid t.mtValid rest = true ∧ ∃ x, t.rsp = drawn x := by
  cases hd : decode w with
  | lcgSeed v =>
    rw [hd] at ht
    cases ht
    exact ⟨by simpa [seedsFirst, hd] using h, 0, rfl⟩
  | lcgNext =>
    obtain ⟨hv, hrest⟩ : s.lcgValid = true ∧ seedsFirst s.lcgValid s.mtValid rest = true := by
      simpa [seedsFirst, hd] using h
    rw [hd, exec_lcgNext_seeded hv] at ht
    cases ht
    exact ⟨hrest, _, rfl⟩
  | mtSeed v =>
    rw [hd] at ht
    cases ht
    exact ⟨by simpa [seedsFirst, hd] using h, 0, rfl⟩
  | mtNext =>
    obtain ⟨hv, hrest⟩ : s.mtValid = true ∧ seedsFirst s.lcgValid s.mtValid rest = true := by
      simpa [seedsFirst, hd] using h
    rw [hd, exec_mtNext_seeded hv] at ht
    cases ht
    by_cases hc : s.cursor = 0 <;> exact ⟨by simpa [hc] using hrest, _, rfl⟩

@[simp] theorem safe_writeHost (h : List HostEvent) (s : State) : (writeHost h s).safe = s.safe := rfl

/-- The host's taking moves the response from the channel to the responses taken; safety counts both. -/
@[simp] theorem safe_takeResponse (s : State) : (takeResponse s).safe = s.safe := by
  cases hr : s.rsp <;> simp [State.safe, hr]

/-- A command answered without an error keeps a run safe. -/
theorem safe_of_exec_drawn {i : Instr} {s t : State} {x : Word} (hs : s.safe = true) (ht : exec i s = .next t)
    (hr : t.rsp = drawn x) : t.safe = true := by
  obtain ⟨-, hreceived, -, -⟩ := exec_channels ht
  obtain ⟨hall, -⟩ : s.received.all rspOk = true ∧ s.rsp.all rspOk = true := by simpa [State.safe] using hs
  rw [State.safe, hreceived, hall, hr]
  simp [drawn, rspOk]

/-- A run safe so far, at a host that seeds first from here on: what a step carries on (R177, R178). -/
structure SafeAndSeedsFirst (s : State) : Prop where
  safe : s.safe = true
  seeds_first : seedsFirst s.lcgValid s.mtValid s.host = true

/-- Every step answers and carries the safety on: a command in order is no refused draw, a taking hands over a response that
is no error, and a reset does not happen. -/
theorem step_keeps_safeAndSeedsFirst (s : State) (hs : SafeAndSeedsFirst s) :
    ∃ t, step s = .next t ∧ SafeAndSeedsFirst t := by
  obtain ⟨hsafe, hfirst⟩ := hs
  rcases step_cases s with ⟨-, h⟩ | ⟨w, rest, -, -, hh, h⟩ | ⟨rest, hn, h⟩ | ⟨rest, hn, -⟩
  · exact ⟨s, h, hsafe, hfirst⟩
  · obtain ⟨t, -, ht, -⟩ := exec_answers (decode w) (writeHost rest s)
    rw [hh] at hfirst
    obtain ⟨hrest, x, hr⟩ := exec_of_seedsFirst (s := writeHost rest s) hfirst ht
    obtain ⟨hhost, -, -, -⟩ := exec_channels ht
    exact ⟨t, h.trans ht, safe_of_exec_drawn (by simpa using hsafe) ht hr, by simpa [hhost] using hrest⟩
  · obtain ⟨-, hrest⟩ := seedsFirst_of_firstNonCommand hfirst (firstNonCommand_of_nextHostEvent hn nofun)
    exact ⟨_, h, by simpa using hsafe, by simpa using hrest⟩
  · obtain ⟨hreset, -⟩ := seedsFirst_of_firstNonCommand hfirst (firstNonCommand_of_nextHostEvent hn nofun)
    cases hreset

/-- Settles O25: safety and the host's duty together are an invariant of the step. -/
theorem seedingFirstIsSafe : Obligations.SeedingFirstIsSafe := by
  intro s n hsafe hfirst
  obtain ⟨t, ht, hsafe', -⟩ := run_invariant step_keeps_safeAndSeedsFirst n ⟨hsafe, hfirst⟩
  exact ⟨t, ht, hsafe'⟩

end Sys2Proof.Machine
end
